-- ==== Sys2Proof/Word.lean ====
section
/-! DEFINITION. The word types of the CORE and the fixed-length array of element-indexed storage. -/

namespace Sys2Proof

/-- A command, response, status or detection word; bit 0 is the least significant (00_scope R15, R16). -/
abbrev Word := BitVec 32

/-- A shift register of ten positions (00_scope R17): position `p` is bit `p`, position 0 the front. -/
abbrev ShiftReg := BitVec 10

/-- A value of the bipolar alphabet, -1 or +1 (10_state R26). -/
inductive Bipolar where
  | neg
  | pos
  deriving DecidableEq, Repr

/-- An array of `n` elements (20_memory R60): its length is fixed, so the list of its cells has one form. -/
structure Tab (α : Type) (n : Nat) where
  cells : List α
  size_eq : cells.length = n
  deriving DecidableEq, Repr

/-- The array whose every element is `a`. -/
def Tab.const {α : Type} (n : Nat) (a : α) : Tab α n := ⟨List.replicate n a, List.length_replicate⟩

end Sys2Proof
end

