-- ==== Sys2Proof/Syntax.lean ====
section
/-! DEFINITION. The eleven host commands of 30_encoding R98, and the assembler's lines of R106 and R107. -/

namespace Sys2Proof

/-- One constructor per row of the opcode table. `s` is the 0-based satellite index, `i` the 0-based element index,
`val` the sample value, as the assembler writes them (30_encoding R97, R106). -/
inductive Instr where
  | nop
  | rst
  | lds (i : Nat) (val : Int)
  | gen
  | acq
  | rdstat
  | rdr (s : Nat)
  | rdc (s i : Nat)
  | rdb (s i : Nat)
  | rds (i : Nat)
  | rdt (s : Nat)
  deriving DecidableEq, Repr

/-- One line of the assembler: a command, a literal word (`.word`), or a pseudo-instruction (30_encoding R106, R107). -/
inductive AsmLine where
  | command (i : Instr)
  | word (w : Word)
  | ldv (base : Nat) (vs : List Int)
  | ldall (v : Tab Int 1023)
  | run
  deriving DecidableEq, Repr

/-- `LDS base, v0`, `LDS base+1, v1`, … in that order (30_encoding R107). -/
def ldvCommands : Nat → List Int → List Instr
  | _, [] => []
  | base, v :: vs => .lds base v :: ldvCommands (base + 1) vs

end Sys2Proof
end

