-- ==== Sys2Proof/WellFormed.lean ====
section
/-! DEFINITION. Which commands the assembler accepts: every operand fits its field (30_encoding R106). -/

namespace Sys2Proof

/-- A satellite index fits its 5-bit field. -/
def satFits (s : Nat) : Bool := decide (s ≤ 31)

/-- An element index fits its 10-bit field. -/
def indexFits (i : Nat) : Bool := decide (i ≤ 1023)

/-- A sample value fits its 5-bit two's-complement field. -/
def valFits (v : Int) : Bool := decide (-16 ≤ v) && decide (v ≤ 15)

/-- The assembler's check: "The assembler refuses an operand that does not fit its field"; operands that fit but are out
of the legal range are accepted, so that the error paths can be exercised (30_encoding R106). -/
def Instr.wf : Instr → Bool
  | .nop => true
  | .rst => true
  | .lds i val => indexFits i && valFits val
  | .gen => true
  | .acq => true
  | .rdstat => true
  | .rdr s => satFits s
  | .rdc s i => satFits s && indexFits i
  | .rdb s i => satFits s && indexFits i
  | .rds i => indexFits i
  | .rdt s => satFits s

/-- A command every operand of which fits its field. -/
abbrev Instr.WellFormed (i : Instr) : Prop := i.wf = true

end Sys2Proof
end

