-- ==== Sys2Proof/Decode.lean ====
section
/-! DEFINITION. Bit fields, the decoder of 30_encoding R102, the encoder of R91 to R97, the opcode map of R98, and the
assembler's expansion of R106 and R107. -/

namespace Sys2Proof

/-- `w[hi:lo]`, the field of bits `hi` down to `lo`, unsigned (00_scope R16). -/
def bits (w : Word) (hi lo : Nat) : Nat := w.toNat / 2 ^ lo % 2 ^ (hi + 1 - lo)

/-- `sext_5(v)` (00_scope section 7). -/
def sext5 (v : Nat) : Int := if v < 16 then (v : Int) else (v : Int) - 32

/-- `tc_n(v)`, the n-bit two's-complement pattern of `v` as an unsigned number (00_scope section 7). -/
def tc (n : Nat) (v : Int) : Nat := (v % ((2 ^ n : Nat) : Int)).toNat

/-- Why a word is no command (30_encoding R99, R100). -/
inductive Illegal where
  /-- `E_OPCODE`: the opcode is reserved (R99). -/
  | opcode
  /-- `E_FIELD`: a reserved bit is set (R100). -/
  | field
  deriving DecidableEq, Repr

/-- A word is a command where its reserved bits are zero (30_encoding R100), else `E_FIELD`. -/
def reserved (bad : Nat) (i : Instr) : Except Illegal Instr := if bad = 0 then .ok i else .error .field

/-- Format N (30_encoding R92): `w[27:0]` reserved. -/
def decodeN (w : Word) (i : Instr) : Except Illegal Instr := reserved (bits w 27 0) i

/-- Format S (30_encoding R93): `s = w[4:0]`, `w[27:5]` reserved. -/
def decodeS (w : Word) (mk : Nat → Instr) : Except Illegal Instr := reserved (bits w 27 5) (mk (bits w 4 0))

/-- Format SI (30_encoding R94): `i = w[9:0]`, `s = w[14:10]`, `w[27:15]` reserved. -/
def decodeSI (w : Word) (mk : Nat → Nat → Instr) : Except Illegal Instr :=
  reserved (bits w 27 15) (mk (bits w 14 10) (bits w 9 0))

/-- Format I (30_encoding R95): `i = w[9:0]`, `w[27:10]` reserved. -/
def decodeI (w : Word) (mk : Nat → Instr) : Except Illegal Instr := reserved (bits w 27 10) (mk (bits w 9 0))

/-- Format IV (30_encoding R96, R97): `i = w[9:0]`, `val = sext_5(w[20:16])`, `w[15:10]` and `w[27:21]` reserved. -/
def decodeIV (w : Word) (mk : Nat → Int → Instr) : Except Illegal Instr :=
  reserved (bits w 15 10 + bits w 27 21) (mk (bits w 9 0) (sext5 (bits w 20 16)))

/-- The decoding algorithm, total on any word (30_encoding R91, R98, R99, R102). -/
def decode (w : Word) : Except Illegal Instr :=
  match bits w 31 28 with
  | 0x0 => decodeN w .nop
  | 0x1 => decodeN w .rst
  | 0x2 => decodeIV w .lds
  | 0x3 => decodeN w .gen
  | 0x4 => decodeN w .acq
  | 0x5 => decodeN w .rdstat
  | 0x6 => decodeS w .rdr
  | 0x7 => decodeSI w .rdc
  | 0x8 => decodeSI w .rdb
  | 0x9 => decodeI w .rds
  | 0xA => decodeS w .rdt
  | _ => .error .opcode

/-- The opcode `w[31:28]` of a command (30_encoding R98). -/
def opcode : Instr → Nat
  | .nop => 0x0
  | .rst => 0x1
  | .lds _ _ => 0x2
  | .gen => 0x3
  | .acq => 0x4
  | .rdstat => 0x5
  | .rdr _ => 0x6
  | .rdc _ _ => 0x7
  | .rdb _ _ => 0x8
  | .rds _ => 0x9
  | .rdt _ => 0xA

/-- The operand bits of a command, as one number (30_encoding R92 to R97). -/
def operandBits : Instr → Nat
  | .nop => 0
  | .rst => 0
  | .lds i val => 65536 * tc 5 val + i
  | .gen => 0
  | .acq => 0
  | .rdstat => 0
  | .rdr s => s
  | .rdc s i => 1024 * s + i
  | .rdb s i => 1024 * s + i
  | .rds i => i
  | .rdt s => s

/-- The word of a well-formed command (30_encoding R91 to R97). -/
def encode (i : Instr) : Word := BitVec.ofNat 32 (2 ^ 28 * opcode i + operandBits i)

/-- A row of the opcode map (30_encoding R98): `w` is a well-formed encoding of the row where `w & mask = word`. -/
structure OpcodeRow where
  op : Nat
  mnemonic : String
  word : Word
  mask : Word
  deriving DecidableEq, Repr

/-- The eleven rows of the opcode map (30_encoding R98). -/
def opcodeRows : List OpcodeRow :=
  [⟨0x0, "NOP", 0x00000000#32, 0xFFFFFFFF#32⟩,
   ⟨0x1, "RST", 0x10000000#32, 0xFFFFFFFF#32⟩,
   ⟨0x2, "LDS", 0x20000000#32, 0xFFE0FC00#32⟩,
   ⟨0x3, "GEN", 0x30000000#32, 0xFFFFFFFF#32⟩,
   ⟨0x4, "ACQ", 0x40000000#32, 0xFFFFFFFF#32⟩,
   ⟨0x5, "RDSTAT", 0x50000000#32, 0xFFFFFFFF#32⟩,
   ⟨0x6, "RDR", 0x60000000#32, 0xFFFFFFE0#32⟩,
   ⟨0x7, "RDC", 0x70000000#32, 0xFFFF8000#32⟩,
   ⟨0x8, "RDB", 0x80000000#32, 0xFFFF8000#32⟩,
   ⟨0x9, "RDS", 0x90000000#32, 0xFFFFFC00#32⟩,
   ⟨0xA, "RDT", 0xA0000000#32, 0xFFFFFFE0#32⟩]

/-- A word is a well-formed encoding of a row (30_encoding R98). -/
def OpcodeRow.encodes (r : OpcodeRow) (w : Word) : Bool := decide (w &&& r.mask = r.word)

/-- The commands a line stands for, and the words of them; none where the assembler refuses an operand
(30_encoding R106, R107). -/
def assembleCommands (cs : List Instr) : Option (List Word) :=
  if cs.all Instr.wf then some (cs.map encode) else none

/-- The words of one assembler line (30_encoding R106, R107). -/
def assemble : AsmLine → Option (List Word)
  | .command i => assembleCommands [i]
  | .word w => some [w]
  | .ldv base vs => assembleCommands (ldvCommands base vs)
  | .ldall v => assembleCommands (ldvCommands 0 v.cells)
  | .run => assembleCommands [.gen, .acq]

/-- The command this decoder reads from an instruction whose `nbits` bits are `w`, every bit above them 0. A command is
one 32-bit word (30_encoding R90), so there is nothing to lay out beyond the word itself. -/
def decodeTableWord (nbits w : Nat) : Option Instr :=
  match decode (BitVec.ofNat 32 (w % 2 ^ nbits)) with
  | .ok i => some i
  | .error _ => none

end Sys2Proof
end

