-- ==== Sys2Proof/Config.lean ====
section
/-! DEFINITION. The implementation parameters of 00_scope R9 to R13 and the default tap table of R11. -/

namespace Sys2Proof

/-- One Tap Configuration entry: two bottom-register positions, each 0..9 by its type (00_scope R11, 10_state R24). -/
structure TapPair where
  a : Fin 10
  b : Fin 10
  deriving DecidableEq, Repr

/-- Number of satellite identities (00_scope R9). -/
def Config.nSat : Nat := 24

/-- Positions per shift register (00_scope R9). -/
def Config.lReg : Nat := 10

/-- Chips per sequence and received samples (00_scope R9). -/
def Config.nChip : Nat := 1023

/-- Feedback positions of the top register (00_scope R10). -/
def Config.fbTop : List Nat := [2, 9]

/-- Feedback positions of the bottom register (00_scope R10). -/
def Config.fbBot : List Nat := [1, 2, 5, 7, 8, 9]

/-- The top register's output position (00_scope R10). -/
def Config.outTop : Nat := 9

/-- The detection margin, 3 × 65 (00_scope R12, 92 D18). -/
def Config.margin : Int := 3 * 65

/-- The upper threshold `NCHIP - MARGIN` (00_scope R12). -/
def Config.thrHi : Int := Config.nChip - Config.margin

/-- The lower threshold `-NCHIP + MARGIN` (00_scope R12). -/
def Config.thrLo : Int := -Config.nChip + Config.margin

/-- The least sample value (00_scope R13). -/
def Config.sMin : Int := -9

/-- The greatest sample value (00_scope R13). -/
def Config.sMax : Int := 9

/-- `T_GPS`, the default of the open parameter `TAP` (00_scope R11, 93 G1: general knowledge, not the source's).
DESIGN CHOICE, log 2: the value `State.reset` carries. Unsafe for a claim about the original's chips. -/
def Config.tGps : Tab TapPair 24 :=
  ⟨[⟨1, 5⟩, ⟨2, 6⟩, ⟨3, 7⟩, ⟨4, 8⟩, ⟨0, 8⟩, ⟨1, 9⟩, ⟨0, 7⟩, ⟨1, 8⟩, ⟨2, 9⟩, ⟨1, 2⟩, ⟨2, 3⟩, ⟨4, 5⟩,
    ⟨5, 6⟩, ⟨6, 7⟩, ⟨7, 8⟩, ⟨8, 9⟩, ⟨0, 3⟩, ⟨1, 4⟩, ⟨2, 5⟩, ⟨3, 6⟩, ⟨4, 7⟩, ⟨5, 8⟩, ⟨0, 2⟩, ⟨3, 5⟩], rfl⟩

end Sys2Proof
end

