-- ==== Sys2Proof/Machine/State.lean ====
section
/-! DEFINITION. The state of the CORE (10_state), its reset value, and the reasons a step can stop. -/

namespace Sys2Proof.Machine

open Sys2Proof

/-- The sequencer phase, 3 bits; the values 6 and 7 "never occur" (10_state R32). -/
inductive Phase where
  | idle
  | genRun
  | ready
  | acqRun
  | done
  | fault
  deriving DecidableEq, Repr

/-- The error causes and codes 0 to 7; codes 8 to 15 "are never produced" (60_exceptions R220). -/
inductive Err where
  | none
  | opcode
  | field
  | seq
  | index
  | range
  | uninit
  | faulted
  deriving DecidableEq, Repr

/-- The status of a result register; the value 3 "never occurs" (10_state R30). -/
inductive Status where
  | none
  | found
  | nosync
  deriving DecidableEq, Repr

/-- A result register `RES[s]`; the satellite identity is its index (10_state R30). -/
structure Result where
  status : Status
  bit : Bool
  offset : BitVec 10
  deriving DecidableEq, Repr

/-- `(NONE, 0, 0)` (10_state R30). -/
def Result.none : Result := ⟨.none, false, 0⟩

/-- `(NOSYNC, 0, 0)` (10_state R30, 41_correlator R167). -/
def Result.nosync : Result := ⟨.nosync, false, 0⟩

/-- A detection record `(id, bit, offset)`, `id` the 1-based identity (10_state R31). -/
structure DetRecord where
  id : Nat
  bit : Bool
  offset : BitVec 10
  deriving DecidableEq, Repr

/-- The micro-operations of the hardwired sequencer (40_generator R131 to R135, 41_correlator R161 to R166). -/
inductive MicroOp where
  | gInit
  | gChip
  | gTop
  | gBot
  | gMap
  | cClr
  | cMac
  | cDecide
  | cRot
  deriving DecidableEq, Repr

/-- The state: one field per row of 10_state R20, then the open parameter `TAP`, then what the model adds.
An absent option is the spec's own state: a piece of state nothing has written since reset "holds no value" (R40). -/
structure State where
  /-- `TOP`, the top shift register (R21). -/
  top : Option ShiftReg
  /-- `BOT`, the bottom shift register (R22). -/
  bot : Option ShiftReg
  /-- `CHIP[s][i]`, the chip sequences (R25). -/
  chip : Tab (Tab (Option Bool) 1023) 24
  /-- `BIP[s][i]`, the bipolar working sequences (R26). -/
  bip : Tab (Tab (Option Bipolar) 1023) 24
  /-- `SAMP[i]`, the received samples, 5-bit two's complement (R27). -/
  samp : Tab (Option (BitVec 5)) 1023
  /-- `SVALID[i]`, the sample has been written since reset (R28). -/
  svalid : Tab Bool 1023
  /-- `ACC`, the 16-bit two's-complement accumulator (R29). -/
  acc : Option (BitVec 16)
  /-- `RES[s]`, the result registers (R30). -/
  res : Tab Result 24
  /-- `DETLOG`, the records emitted since the last reset, oldest first (R31). -/
  detlog : List DetRecord
  /-- `PHASE` (R32). -/
  phase : Phase
  /-- `ERR`, the error latch (R33). -/
  err : Err
  /-- `S`, the satellite counter, 0..23 (R35). -/
  ctrS : Option (Fin 24)
  /-- `I`, the chip counter, 0..1022 (R35). -/
  ctrI : Option (Fin 1023)
  /-- `D`, the offset counter, 0..1023 in 10 bits (R35). -/
  ctrD : Option (BitVec 10)
  /-- `K`, the element counter, 0..1022 (R35). -/
  ctrK : Option (Fin 1023)
  /-- `TAP`, the open parameter, carried here and written by nothing (R24, R38; DESIGN CHOICE, log 2). -/
  tap : Tab TapPair 24
  /-- The micro-operation that runs next while busy (R35; DEDUCED, log 3, safe). -/
  mop : Option MicroOp
  /-- The words the host will offer on `cmd`, the next one first (R38, 70 R260; DESIGN CHOICE, log 4, safe). -/
  cmdIn : List Word
  /-- The moments the host asserts `rst`: the head is the number of steps before the next assertion, each later entry
  the number of steps between an assertion and the one after it (R38, 70 R262; DESIGN CHOICE, log 5). -/
  rstIn : List Nat
  /-- The response words produced, oldest first (70 R260, R269; DESIGN CHOICE, log 6, safe). -/
  rsp : List Word
  /-- The words the detection port has carried, oldest first (70 R260, R262; DESIGN CHOICE, log 6, safe). -/
  det : List Word
  deriving DecidableEq, Repr

/-- Why the machine stops with a fault. -/
inductive Fault where
  /-- A read of state that nothing has written since reset, which 10_state R40 calls a model fault (93 U8). Raised by
  `RDC`, `RDB`, `RDS`, `ACQ` and the micro-operations, in states no run reaches. Safe. -/
  | absentRead
  /-- A busy phase whose sequencer position is no micro-operation of that phase (R35). Raised by the sequencer, in states
  no run reaches. Safe. -/
  | badPosition
  deriving DecidableEq, Repr

/-- Why the machine has no meaning for a command. -/
inductive Refusal where
  /-- The instruction has no meaning yet: raised by `exec`'s rejected arms only. Safe. -/
  | notModelled (mnemonic : String)
  /-- A command handed to `exec` while another one executes: the port "accepts nothing" then (70 R267). Raised by every
  meaning in GEN_RUN and ACQ_RUN; `step` never asks it, the word stays offered. Safe. -/
  | portBusy
  deriving DecidableEq, Repr

/-- What a meaning answers. -/
abbrev Out := Host.Outcome State Fault Refusal

/-- The machine right after reset (10_state R39, R40), with the default tap table (log 2) and a silent host (log 4 to 6). -/
def State.reset : State where
  top := Option.none
  bot := Option.none
  chip := Tab.const 24 (Tab.const 1023 Option.none)
  bip := Tab.const 24 (Tab.const 1023 Option.none)
  samp := Tab.const 1023 Option.none
  svalid := Tab.const 1023 false
  acc := Option.none
  res := Tab.const 24 Result.none
  detlog := []
  phase := .idle
  err := .none
  ctrS := Option.none
  ctrI := Option.none
  ctrD := Option.none
  ctrK := Option.none
  tap := Config.tGps
  mop := Option.none
  cmdIn := []
  rstIn := []
  rsp := []
  det := []

end Sys2Proof.Machine
end

