-- ==== Sys2Proof/Machine/Flags.lean ====
section
/-! DEFINITION. Codes of phases, errors and statuses, the derived flags `SFULL` and `NDET`, the `STAT` view, and the
threshold detector's two transient signals (10_state R32 to R36). -/

namespace Sys2Proof.Machine

open Sys2Proof

/-- The value of `PHASE` (10_state R32). -/
def phaseCode : Phase → Nat
  | .idle => 0
  | .genRun => 1
  | .ready => 2
  | .acqRun => 3
  | .done => 4
  | .fault => 5

/-- A command is executing: the command port is not ready (10_state R32, 70 R267). -/
def busy : Phase → Bool
  | .idle => false
  | .genRun => true
  | .ready => false
  | .acqRun => true
  | .done => false
  | .fault => false

/-- The error code (60_exceptions R220). -/
def errCode : Err → Nat
  | .none => 0
  | .opcode => 1
  | .field => 2
  | .seq => 3
  | .index => 4
  | .range => 5
  | .uninit => 6
  | .faulted => 7

/-- The value of a result's `status` field (10_state R30, 30_encoding R105). -/
def statusCode : Status → Nat
  | .none => 0
  | .found => 1
  | .nosync => 2

/-- A bit as a number. -/
def bitNat (b : Bool) : Nat := if b then 1 else 0

/-- `SFULL`: every `SVALID[i]` is 1 (10_state R28). -/
def sfull (s : State) : Bool := s.svalid.cells.all (fun v => v)

/-- `NDET`: the number of satellites whose status is FOUND (10_state R34). -/
def ndet (s : State) : Nat := s.res.cells.countP (fun r => decide (r.status = .found))

/-- `STAT` (10_state R34): `PHASE + 8 × ERR + 128 × SFULL + 256 × NDET` (42 R194). -/
def statWord (s : State) : Word :=
  BitVec.ofNat 32 (phaseCode s.phase + 8 * errCode s.err + 128 * bitNat (sfull s) + 256 * ndet s)

/-- `HIT_HI` (10_state R36, 41_correlator R164): signed and inclusive. -/
def hitHi (acc : BitVec 16) : Bool := decide (Config.thrHi ≤ acc.toInt)

/-- `HIT_LO` (10_state R36, 41_correlator R164): signed and inclusive. -/
def hitLo (acc : BitVec 16) : Bool := decide (acc.toInt ≤ Config.thrLo)

end Sys2Proof.Machine
end

