-- ==== Sys2Proof/Machine/Ops.lean ====
section
/-! DEFINITION. The named operations over arrays, ports and the error latch: element access (20_memory), responses
(30_encoding R103 to R105), error entry (60_exceptions R229) and reset, the way out of it (60 R231, 70 R261). -/

namespace Sys2Proof

/-- Read one element (20_memory R60, R64). -/
def Tab.get {α : Type} {n : Nat} (t : Tab α n) (i : Fin n) : α :=
  t.cells[i.val]'(Nat.lt_of_lt_of_eq i.isLt t.size_eq.symm)

/-- Write one element (20_memory R60, R64). -/
def Tab.set {α : Type} {n : Nat} (t : Tab α n) (i : Fin n) (a : α) : Tab α n :=
  ⟨t.cells.set i.val a, List.length_set.trans t.size_eq⟩

/-- Apply `f` to every element. -/
def Tab.map {α β : Type} {n : Nat} (f : α → β) (t : Tab α n) : Tab β n :=
  ⟨t.cells.map f, (List.length_map f).trans t.size_eq⟩

end Sys2Proof

namespace Sys2Proof.Machine

open Sys2Proof

/-- Read an element `A[s][i]` of a two-index array (20_memory R60). -/
def read2 {α : Type} (a : Tab (Tab α 1023) 24) (s : Fin 24) (i : Fin 1023) : α := (a.get s).get i

/-- Write an element `A[s][i]` of a two-index array (20_memory R60). -/
def write2 {α : Type} (a : Tab (Tab α 1023) 24) (s : Fin 24) (i : Fin 1023) (v : α) : Tab (Tab α 1023) 24 :=
  a.set s ((a.get s).set i v)

/-- `respond(w)`: put one word on the response port (30_encoding R103). -/
def respond (w : Word) (s : State) : State := { s with rsp := s.rsp ++ [w] }

/-- The response of an error, `0x80000000 + code` (30_encoding R103). -/
def errWord (e : Err) : Word := BitVec.ofNat 32 (0x80000000 + errCode e)

/-- Error entry's state change (60_exceptions R229): "the first error is kept; a later one does not overwrite it". -/
def latch (e : Err) (s : State) : State :=
  { s with err := if s.err = .none then e else s.err, phase := .fault }

/-- Error entry, `raise E_x` (60_exceptions R229): latch, enter FAULT, respond with this command's code, nothing else. -/
def raise (e : Err) (s : State) : Out := .next (respond (errWord e) (latch e s))

/-- The refusal of a command in FAULT, `E_FAULTED`: a response and no other change (60_exceptions R227, 42 R190 step 1). -/
def refuseFaulted (s : State) : Out := .next (respond (errWord .faulted) s)

/-- Reset (70 R261, 10_state R39): the reset state, but for `TAP`, which is unchanged, and the host's side of the ports:
what it will still send and what the ports have already carried (70 R262). -/
def applyReset (s : State) : State :=
  { State.reset with tap := s.tap, cmdIn := s.cmdIn, rstIn := s.rstIn, rsp := s.rsp, det := s.det }

/-- A result record as the 32-bit word of 30_encoding R105: `status + 4 × bit + 8 × offset + 8192 × id`. -/
def recordWord (r : Result) (id : Nat) : Word :=
  BitVec.ofNat 32 (statusCode r.status + 4 * bitNat r.bit + 8 * r.offset.toNat + 8192 * id)

/-- The 1-based identity of a satellite index (30_encoding R105, 92 D14). -/
def satId (s : Fin 24) : Nat := s.val + 1

/-- `emit det(id = s + 1, bit, offset)` with the write of `RES[s]` to FOUND (41_correlator R165, 10_state R31). -/
def emitFound (s : Fin 24) (bit : Bool) (offset : BitVec 10) (st : State) : State :=
  { st with
    res := st.res.set s ⟨.found, bit, offset⟩
    detlog := st.detlog ++ [⟨satId s, bit, offset⟩]
    det := st.det ++ [recordWord ⟨.found, bit, offset⟩ (satId s)] }

/-- `MemWrite(RES, s, (NOSYNC, 0, 0))` (41_correlator R167). -/
def markNosync (s : Fin 24) (st : State) : State := { st with res := st.res.set s Result.nosync }

end Sys2Proof.Machine
end

