-- ==== Sys2Proof/Machine/Operands.lean ====
section
/-! DEFINITION. The checks every command passes before its operation, in the order of 42_host_commands R190, and the
operands' legal ranges (30_encoding R97, 20_memory R61). -/

namespace Sys2Proof.Machine

open Sys2Proof

/-- R190 steps 1 and 3: in FAULT the command is refused (step 1), in a phase not `legal` for it, it raises `E_SEQ`
(step 3, R200). While a command executes the port accepts none (70 R267; log 8, safe). -/
def inPhase (legal : Phase → Bool) (s : State) (k : Out) : Out :=
  if busy s.phase then .refused .portBusy
  else if s.phase = .fault then refuseFaulted s
  else if legal s.phase then k
  else raise .seq s

/-- The commands legal in every phase the host can see, FAULT included: `RST` and `RDSTAT` (42 R200). -/
def inAnyPhase (s : State) (k : Out) : Out := if busy s.phase then .refused .portBusy else k

/-- Legal in IDLE, READY and DONE (42 R200). -/
def anyPhase : Phase → Bool := fun p => decide (p = .idle ∨ p = .ready ∨ p = .done)

/-- Legal once a `GEN` has completed: READY and DONE (42 R200, `RDC` and `RDB`). -/
def tablesValid : Phase → Bool := fun p => decide (p = .ready ∨ p = .done)

/-- Legal in READY only (42 R200, `ACQ`). -/
def readyOnly : Phase → Bool := fun p => decide (p = .ready)

/-- R190 step 4 for a satellite index: above 23 raises `E_INDEX` (20_memory R61). -/
def withSat (n : Nat) (s : State) (k : Fin 24 → Out) : Out := if h : n < 24 then k ⟨n, h⟩ else raise .index s

/-- R190 step 4 for an element index: above 1022 raises `E_INDEX` (20_memory R61). -/
def withIndex (n : Nat) (s : State) (k : Fin 1023 → Out) : Out := if h : n < 1023 then k ⟨n, h⟩ else raise .index s

/-- R190 step 5: a sample value outside -9..9 raises `E_RANGE` (60_exceptions R225). -/
def withSample (v : Int) (s : State) (k : BitVec 5 → Out) : Out :=
  if Config.sMin ≤ v ∧ v ≤ Config.sMax then k (BitVec.ofInt 5 v) else raise .range s

/-- A read of an element that may hold no value: reading an absent one is a model fault (10_state R40,
93 U8). -/
def withValue {α : Type} (v : Option α) (k : α → Out) : Out :=
  match v with
  | some a => k a
  | none => .fault .absentRead

/-- R190 step 7: respond with the success word, on the state the operation leaves. -/
def answer (w : Word) (s : State) : Out := .next (respond w s)

end Sys2Proof.Machine
end

