-- ==== Sys2Proof/Machine/Correlator.lean ====
section
/-! DEFINITION. The acquisition correlator (41_correlator): dot product, threshold detector, rotation, the search of one
satellite, one whole run of it, and `ACQ`. -/

namespace Sys2Proof.Machine

open Sys2Proof

/-- The integer value of a bipolar element. -/
def bipolarInt : Bipolar → Int
  | .neg => -1
  | .pos => 1

/-- The value of a sample: its 5-bit two's-complement pattern (00_scope R13). -/
def sampleInt (x : BitVec 5) : Int := x.toInt

/-- One term of the dot product, none where either element holds no value (41_correlator R162). -/
def term (x : Option (BitVec 5)) (b : Option Bipolar) : Option Int :=
  match x, b with
  | some v, some c => some (sampleInt v * bipolarInt c)
  | _, _ => none

/-- "element-wise multiply-and-sum" over two rows (41_correlator R163); the sum is exact (R170). -/
def dot : List (Option (BitVec 5)) → List (Option Bipolar) → Option Int
  | x :: xs, b :: bs =>
    match term x b, dot xs bs with
    | some p, some q => some (p + q)
    | _, _ => none
  | _, _ => some 0

/-- `c_dot(s)` (41_correlator R163): `ACC` becomes the product of `SAMP` and the current, possibly rotated, `BIP[s]`. -/
def cDot (k : Fin 24) (s : State) : State :=
  { s with acc := (dot s.samp.cells (s.bip.get k).cells).map (BitVec.ofInt 16) }

/-- The outcome of `c_decide` (41_correlator R165). -/
inductive Decision where
  | hit (bit : Bool)
  | miss
  deriving DecidableEq, Repr

/-- The threshold detector (41_correlator R165): "The upper test is made first". -/
def decideAcc (acc : BitVec 16) : Decision :=
  if hitHi acc then .hit true else if hitLo acc then .hit false else .miss

/-- The detector on the accumulator register; with no value in it nothing crosses a threshold (`ACQ` never gets there). -/
def decideReg (acc : Option (BitVec 16)) : Decision :=
  match acc with
  | some a => decideAcc a
  | none => .miss

/-- `rotr`: "the value that falls off the end is reinserted at the front" (00_scope R18). -/
def rotr {α : Type} (v : List α) : List α := v.drop (v.length - 1) ++ v.take (v.length - 1)

theorem rotr_length {α : Type} (v : List α) : (rotr v).length = v.length := by
  simp only [rotr, List.length_append, List.length_drop, List.length_take]
  omega

/-- `rotr` of a row (41_correlator R166). -/
def rotrTab {α : Type} {n : Nat} (t : Tab α n) : Tab α n := ⟨rotr t.cells, (rotr_length t.cells).trans t.size_eq⟩

/-- `c_rot(s)` (41_correlator R166): "only row `s` changes". -/
def cRot (k : Fin 24) (s : State) : State := { s with bip := s.bip.set k (rotrTab (s.bip.get k)) }

/-- The search of satellite `k` (41_correlator R167) with `fuel` offsets left to try, the next of them `d`: product,
decision, and on a MISS the rotation and the next offset; with none left `RES[k]` is NOSYNC. -/
def search (k : Fin 24) : Nat → Nat → State → State
  | 0, _, s => markNosync k s
  | fuel + 1, d, s =>
    match decideReg (cDot k s).acc with
    | .hit bit => emitFound k bit (BitVec.ofNat 10 d) (cDot k s)
    | .miss => search k fuel (d + 1) (cRot k (cDot k s))

/-- The search of one satellite from offset 0 over all 1023 offsets (41_correlator R167). -/
def searchSat (k : Fin 24) (s : State) : State := search k 1023 0 s

/-- The satellite loop, in increasing index (41_correlator R168). -/
def searchAll (ks : List (Fin 24)) (s : State) : State := ks.foldl (fun t k => searchSat k t) s

/-- "`RES[s] <- (NONE, 0, 0)`" for every satellite, the start of `ACQ` (41_correlator R169). -/
def clearResults (s : State) : State := { s with res := Tab.const 24 Result.none }

/-- A whole run of the correlator (41_correlator R169), up to the response; at rest the counters hold no value (93 U9). -/
def acqDone (s : State) : State :=
  { searchAll (List.finRange 24) (clearResults s) with
    ctrS := none
    ctrD := none
    ctrK := none
    mop := none
    phase := .done }

/-- `ACQ` accepted and not yet run: `PHASE <- ACQ_RUN`, `RES` cleared, `S = 0`, `D = 0`, `c_clr` next (41_correlator R167,
R169). -/
def acqStart (s : State) : State :=
  { clearResults s with phase := .acqRun, ctrS := some 0, ctrD := some 0, mop := some .cClr }

/-- Every element of a row holds a value. -/
def rowPresent {α : Type} {n : Nat} (t : Tab (Option α) n) : Bool := t.cells.all Option.isSome

/-- Every sample and every bipolar element holds a value, which SFULL and READY imply in every state a run reaches
(10_state R39). -/
def acqReadable (s : State) : Bool := rowPresent s.samp && s.bip.cells.all rowPresent

/-- R190 step 6 for `ACQ`: some sample was never written (60_exceptions R226). -/
def needSamples (s : State) (k : Out) : Out := if sfull s then k else raise .uninit s

/-- The model fault of 10_state R40 for a run of the correlator in one step: at offset 0 the product of every satellite reads
every sample and every element of its row (41_correlator R163, R167, R168), so the run reads an absent one if there is any
(log 1). -/
def needTables (s : State) (k : Out) : Out := if acqReadable s then k else .fault .absentRead

/-- `ACQ` (41_correlator R169): `E_SEQ` is tested before `E_UNINIT`. One step where no reset is coming, micro-operation by
micro-operation where one is (00_scope R8, 70 R262; log 7, safe). -/
def execAcq (s : State) : Out :=
  inPhase readyOnly s (needSamples s
    (if s.rstIn = [] then needTables s (answer 0 (acqDone s)) else .next (acqStart s)))

end Sys2Proof.Machine
end

