-- ==== Sys2Proof/Machine/Generator.lean ====
section
/-! DEFINITION. The code generator (40_generator): the register steps and the chip, one whole run of it, and `GEN`. -/

namespace Sys2Proof.Machine

open Sys2Proof

/-- Every position 1, the value `g_init` writes (40_generator R131). -/
def allOnes : ShiftReg := BitVec.allOnes 10

/-- The mod-2 sum of the register's positions `ps` (40_generator R133, R134). -/
def feedback (ps : List Nat) (x : ShiftReg) : Bool := ps.foldl (fun f p => f ^^ x.getLsbD p) false

/-- `f :: X[0..8]`: position 0 becomes `f`, position `p` what position `p - 1` was, position 9 is discarded
(00_scope section 7). -/
def shiftIn (f : Bool) (x : ShiftReg) : ShiftReg := x.shiftConcat f

/-- `g_top`'s step (40_generator R133). -/
def topNext (x : ShiftReg) : ShiftReg := shiftIn (feedback Config.fbTop x) x

/-- `g_bot`'s step (40_generator R134). -/
def botNext (x : ShiftReg) : ShiftReg := shiftIn (feedback Config.fbBot x) x

/-- `g_chip`'s bit (40_generator R132): the top register's last position xor the combiner bit of the pair. -/
def chipBit (p : TapPair) (top bot : ShiftReg) : Bool :=
  top.getLsbD Config.outTop ^^ (bot.getLsbD p.a.val ^^ bot.getLsbD p.b.val)

/-- The bipolar map, 0 to -1 and 1 to +1 (00_scope R19, 40_generator R135). -/
def bip (b : Bool) : Bipolar := if b then .pos else .neg

/-- The chips of `n` steps from the given registers: each chip is computed before the registers advance (40_generator
R132, R136). -/
def chipRow (p : TapPair) : Nat → ShiftReg → ShiftReg → List Bool
  | 0, _, _ => []
  | n + 1, top, bot => chipBit p top bot :: chipRow p n (topNext top) (botNext bot)

theorem chipRow_length (p : TapPair) : ∀ (n : Nat) (top bot : ShiftReg), (chipRow p n top bot).length = n
  | 0, _, _ => rfl
  | n + 1, top, bot => congrArg (· + 1) (chipRow_length p n (topNext top) (botNext bot))

/-- A register after `n` steps. -/
def regAfter (next : ShiftReg → ShiftReg) : Nat → ShiftReg → ShiftReg
  | 0, x => x
  | n + 1, x => regAfter next n (next x)

/-- A row of chips, each of which now holds a value. -/
def writtenRow (p : TapPair) (top bot : ShiftReg) : Tab (Option Bool) 1023 :=
  ⟨(chipRow p 1023 top bot).map some, (List.length_map some).trans (chipRow_length p 1023 top bot)⟩

/-- The rows of the satellites in turn: "no re-initialisation here: the registers run on into satellite S+1"
(40_generator R136). -/
def chipRows : List TapPair → ShiftReg → ShiftReg → List (Tab (Option Bool) 1023)
  | [], _, _ => []
  | p :: ps, top, bot => writtenRow p top bot :: chipRows ps (regAfter topNext 1023 top) (regAfter botNext 1023 bot)

theorem chipRows_length : ∀ (ps : List TapPair) (top bot : ShiftReg), (chipRows ps top bot).length = ps.length
  | [], _, _ => rfl
  | _ :: ps, top, bot => congrArg (· + 1) (chipRows_length ps (regAfter topNext 1023 top) (regAfter botNext 1023 bot))

/-- `CHIP` after the chip loops of 40_generator R136, which start with `g_init` (R131). -/
def genChip (tap : Tab TapPair 24) : Tab (Tab (Option Bool) 1023) 24 :=
  ⟨chipRows tap.cells allOnes allOnes, (chipRows_length tap.cells allOnes allOnes).trans tap.size_eq⟩

/-- `BIP` after the mapping loops of 40_generator R136: `g_map` on every element (R135). -/
def genBip (chip : Tab (Tab (Option Bool) 1023) 24) : Tab (Tab (Option Bipolar) 1023) 24 :=
  chip.map (fun row => row.map (fun c => c.map bip))

/-- A whole run of the generator (40_generator R136, R137), up to the response: "State written: `TOP`, `BOT`, all of
`CHIP`, all of `BIP`, `S`, `I`, `PHASE`"; at rest the counters hold no value (93 U9). -/
def genDone (s : State) : State :=
  { s with
    top := some (regAfter topNext (24 * 1023) allOnes)
    bot := some (regAfter botNext (24 * 1023) allOnes)
    chip := genChip s.tap
    bip := genBip (genChip s.tap)
    ctrS := none
    ctrI := none
    mop := none
    phase := .ready }

/-- `GEN` accepted and not yet run: `PHASE <- GEN_RUN`, `g_init` next (40_generator R136, R137). -/
def genStart (s : State) : State := { s with phase := .genRun, mop := some .gInit }

/-- `GEN` (40_generator R137). A command is atomic to the host (00_scope R8): the run is one step where no reset is
coming, and goes micro-operation by micro-operation where one is, so that it can land inside (70 R262; log 7, safe). -/
def execGen (s : State) : Out :=
  inPhase anyPhase s (if s.rstIn = [] then answer 0 (genDone s) else .next (genStart s))

end Sys2Proof.Machine
end

