-- ==== Sys2Proof/Machine/HostCommands.lean ====
section
/-! DEFINITION. The nine host commands of 42_host_commands that are neither `GEN` nor `ACQ`. -/

namespace Sys2Proof.Machine

open Sys2Proof

/-- `NOP` (42 R191). -/
def execNop (s : State) : Out := inPhase anyPhase s (answer 0 s)

/-- `RST` (42 R192): "same effect as the reset input", and a response. Legal in FAULT. -/
def execRst (s : State) : Out := inAnyPhase s (answer 0 (applyReset s))

/-- `SAMP[i] <- v`, `SVALID[i] <- 1` (42 R193). -/
def writeSample (i : Fin 1023) (v : BitVec 5) (s : State) : State :=
  { s with samp := s.samp.set i (some v), svalid := s.svalid.set i true }

/-- `LDS i, val` (42 R193): "`E_INDEX` is tested before `E_RANGE`". -/
def execLds (i : Nat) (val : Int) (s : State) : Out :=
  inPhase anyPhase s (withIndex i s fun k => withSample val s fun v => answer 0 (writeSample k v s))

/-- `RDSTAT` (42 R194). Legal in FAULT. -/
def execRdstat (s : State) : Out := inAnyPhase s (answer (statWord s) s)

/-- `RDR s` (42 R195). -/
def execRdr (n : Nat) (s : State) : Out :=
  inPhase anyPhase s (withSat n s fun k => answer (recordWord (s.res.get k) (satId k)) s)

/-- The response to `RDC`: `zext_32(CHIP[s][i])` (30_encoding R104). -/
def chipWord (b : Bool) : Word := BitVec.ofNat 32 (bitNat b)

/-- `RDC s, i` (42 R196). -/
def execRdc (n i : Nat) (s : State) : Out :=
  inPhase tablesValid s (withSat n s fun k => withIndex i s fun j =>
    withValue (read2 s.chip k j) fun b => answer (chipWord b) s)

/-- The response to `RDB`: `0x00000001` for +1, `0x00000003` for -1 (30_encoding R104). -/
def bipWord : Bipolar → Word
  | .neg => 3
  | .pos => 1

/-- `RDB s, i` (42 R197). -/
def execRdb (n i : Nat) (s : State) : Out :=
  inPhase tablesValid s (withSat n s fun k => withIndex i s fun j =>
    withValue (read2 s.bip k j) fun b => answer (bipWord b) s)

/-- The response to `RDS`: `zext_32(tc_5(SAMP[i]))` (30_encoding R104); a sample is stored as that pattern. -/
def sampleWord (v : BitVec 5) : Word := v.zeroExtend 32

/-- R190 step 6 for `RDS i`: a sample never written raises `E_UNINIT` (60_exceptions R226). -/
def needSample (i : Fin 1023) (s : State) (k : Out) : Out := if s.svalid.get i then k else raise .uninit s

/-- `RDS i` (42 R198). -/
def execRds (i : Nat) (s : State) : Out :=
  inPhase anyPhase s (withIndex i s fun k => needSample k s
    (withValue (s.samp.get k) fun v => answer (sampleWord v) s))

/-- The response to `RDT`: `a + 16 × b` (30_encoding R104). -/
def tapWord (p : TapPair) : Word := BitVec.ofNat 32 (p.a.val + 16 * p.b.val)

/-- `RDT s` (42 R199). -/
def execRdt (n : Nat) (s : State) : Out :=
  inPhase anyPhase s (withSat n s fun k => answer (tapWord (s.tap.get k)) s)

end Sys2Proof.Machine
end

