-- ==== Sys2Proof/Machine/Dispatch.lean ====
section
/-! DEFINITION. The meaning of each command: one arm per constructor of Instr. -/

namespace Sys2Proof.Machine

open Sys2Proof

def exec (i : Instr) (s : State) : Host.Outcome State Fault Refusal :=
  match i with
  | .nop => Sys2Proof.Machine.execNop s
  | .rst => Sys2Proof.Machine.execRst s
  | .lds k val => Sys2Proof.Machine.execLds k val s
  | .gen => Sys2Proof.Machine.execGen s
  | .acq => Sys2Proof.Machine.execAcq s
  | .rdstat => Sys2Proof.Machine.execRdstat s
  | .rdr n => Sys2Proof.Machine.execRdr n s
  | .rdc n k => Sys2Proof.Machine.execRdc n k s
  | .rdb n k => Sys2Proof.Machine.execRdb n k s
  | .rds k => Sys2Proof.Machine.execRds k s
  | .rdt n => Sys2Proof.Machine.execRdt n s

end Sys2Proof.Machine
end

