-- ==== Sys2Proof/Machine/Sequencer.lean ====
section
/-! DEFINITION. The hardwired sequencer, one micro-operation a step: each micro-operation of 40_generator and
41_correlator with the advance of `(PHASE, S, I, D, K)` that R136, R167 and R168 give it. -/

namespace Sys2Proof.Machine

open Sys2Proof

/-- The next element index of a loop over 0..1022, none after the last. -/
def succIndex (i : Fin 1023) : Option (Fin 1023) := if h : i.val + 1 < 1023 then some ⟨i.val + 1, h⟩ else none

/-- The next satellite of a loop over 0..23, none after the last. -/
def succSat (k : Fin 24) : Option (Fin 24) := if h : k.val + 1 < 24 then some ⟨k.val + 1, h⟩ else none

/-- The position after `(S, I)` in a loop over all satellites and elements (40_generator R136). -/
def succPos (k : Fin 24) (i : Fin 1023) : Option (Fin 24 × Fin 1023) :=
  match succIndex i, succSat k with
  | some j, _ => some (k, j)
  | none, some l => some (l, 0)
  | none, none => none

/-- `g_init` (40_generator R131), and the chip loop starts at `S = 0`, `I = 0`. -/
def microGInit (s : State) : Out :=
  .next { s with top := some allOnes, bot := some allOnes, ctrS := some 0, ctrI := some 0, mop := some .gChip }

/-- `g_chip(S, I)` (40_generator R132). -/
def microGChip (s : State) : Out :=
  withValue s.ctrS fun k => withValue s.ctrI fun i => withValue s.top fun t => withValue s.bot fun b =>
    .next { s with chip := write2 s.chip k i (some (chipBit (s.tap.get k) t b)), mop := some .gTop }

/-- `g_top` (40_generator R133). -/
def microGTop (s : State) : Out :=
  withValue s.top fun t => .next { s with top := some (topNext t), mop := some .gBot }

/-- Where the chip loop goes after a step of it (40_generator R136): the next chip, or the mapping loop from `(0, 0)`. -/
def afterChip (k : Fin 24) (i : Fin 1023) (s : State) : State :=
  match succPos k i with
  | some (l, j) => { s with ctrS := some l, ctrI := some j, mop := some .gChip }
  | none => { s with ctrS := some 0, ctrI := some 0, mop := some .gMap }

/-- `g_bot` (40_generator R134), the last micro-operation of a chip step. -/
def microGBot (s : State) : Out :=
  withValue s.ctrS fun k => withValue s.ctrI fun i => withValue s.bot fun b =>
    .next (afterChip k i { s with bot := some (botNext b) })

/-- The end of `GEN` (40_generator R137): READY, the counters at rest, the response. -/
def genFinish (s : State) : State :=
  respond 0 { s with ctrS := none, ctrI := none, mop := none, phase := .ready }

/-- Where the mapping loop goes after a step of it (40_generator R136): the next element, or the end of the command. -/
def afterMap (k : Fin 24) (i : Fin 1023) (s : State) : State :=
  match succPos k i with
  | some (l, j) => { s with ctrS := some l, ctrI := some j }
  | none => genFinish s

/-- `g_map(S, I)` (40_generator R135). -/
def microGMap (s : State) : Out :=
  withValue s.ctrS fun k => withValue s.ctrI fun i => withValue (read2 s.chip k i) fun c =>
    .next (afterMap k i { s with bip := write2 s.bip k i (some (bip c)) })

/-- `c_clr` (41_correlator R161). -/
def microCClr (s : State) : Out := .next { s with acc := some 0, ctrK := some 0, mop := some .cMac }

/-- Where the multiply-accumulate loop goes after element `j`: `K <- K + 1` "omitted after k = 1022" (41_correlator R162,
R163). -/
def afterMac (j : Fin 1023) (s : State) : State :=
  match succIndex j with
  | some l => { s with ctrK := some l }
  | none => { s with mop := some .cDecide }

/-- `c_mac(S, K)` (41_correlator R162), in 16-bit two's complement. -/
def microCMac (s : State) : Out :=
  withValue s.ctrS fun k => withValue s.ctrK fun j => withValue s.acc fun a =>
    withValue (s.samp.get j) fun x => withValue (read2 s.bip k j) fun c =>
      .next (afterMac j { s with acc := some (a + BitVec.ofInt 16 (sampleInt x * bipolarInt c)) })

/-- The end of `ACQ` (41_correlator R169): DONE, the counters at rest, the response. -/
def acqFinish (s : State) : State :=
  respond 0 { s with ctrS := none, ctrD := none, ctrK := none, mop := none, phase := .done }

/-- The search of satellite `k` is over: the next satellite's search from offset 0, or the end of the command
(41_correlator R168). -/
def afterSearch (k : Fin 24) (s : State) : State :=
  match succSat k with
  | some l => { s with ctrS := some l, ctrD := some 0, mop := some .cClr }
  | none => acqFinish s

/-- `c_decide(S)` (41_correlator R165, R167). -/
def microCDecide (s : State) : Out :=
  withValue s.ctrS fun k => withValue s.ctrD fun d => withValue s.acc fun a =>
    match decideAcc a with
    | .hit bit => .next (afterSearch k (emitFound k bit d s))
    | .miss => .next { s with mop := some .cRot }

/-- `D <- D + 1`, and at 1023 the search ends with NOSYNC (41_correlator R167). -/
def afterRot (k : Fin 24) (d : BitVec 10) (s : State) : State :=
  if d.toNat + 1 = 1023 then afterSearch k (markNosync k { s with ctrD := some (d + 1) })
  else { s with ctrD := some (d + 1), mop := some .cClr }

/-- `c_rot(S)` (41_correlator R166, R167). -/
def microCRot (s : State) : Out :=
  withValue s.ctrS fun k => withValue s.ctrD fun d => .next (afterRot k d (cRot k s))

/-- A micro-operation of the generator. -/
def genMicro (m : MicroOp) (s : State) : Out :=
  match m with
  | .gInit => microGInit s
  | .gChip => microGChip s
  | .gTop => microGTop s
  | .gBot => microGBot s
  | .gMap => microGMap s
  | .cClr => .fault .badPosition
  | .cMac => .fault .badPosition
  | .cDecide => .fault .badPosition
  | .cRot => .fault .badPosition

/-- A micro-operation of the correlator. -/
def acqMicro (m : MicroOp) (s : State) : Out :=
  match m with
  | .gInit => .fault .badPosition
  | .gChip => .fault .badPosition
  | .gTop => .fault .badPosition
  | .gBot => .fault .badPosition
  | .gMap => .fault .badPosition
  | .cClr => microCClr s
  | .cMac => microCMac s
  | .cDecide => microCDecide s
  | .cRot => microCRot s

/-- One step of the busy sequencer (10_state R35): the micro-operation its position names, in the phase it belongs to. -/
def micro (s : State) : Out :=
  match s.phase, s.mop with
  | .genRun, some m => genMicro m s
  | .acqRun, some m => acqMicro m s
  | _, _ => .fault .badPosition

end Sys2Proof.Machine
end

