-- ==== Sys2Proof/Machine/Port.lean ====
section
/-! DEFINITION. The command port: the procedure common to every command word (42 R190), and the host's clockless side of
the ports: which word is offered next and when the reset input is asserted (70 R260, R262). -/

namespace Sys2Proof.Machine

open Sys2Proof

/-- The error an illegal word raises (42 R190 step 2). -/
def illegalErr : Illegal → Err
  | .opcode => .opcode
  | .field => .field

/-- The opcodes that are not refused in FAULT: 0x1 (RST) and 0x5 (RDSTAT) (42 R190 step 1). -/
def legalInFault (w : Word) : Bool := decide (bits w 31 28 = 0x1 ∨ bits w 31 28 = 0x5)

/-- Execution of one accepted command word (42 R190): step 1, step 2, then the command's own steps 3 to 7. -/
def accept (w : Word) (s : State) : Out :=
  if s.phase = .fault ∧ legalInFault w = false then refuseFaulted s
  else
    match decode w with
    | .error e => raise (illegalErr e) s
    | .ok i => exec i s

/-- One step with the reset input not asserted: the sequencer's next micro-operation while a command executes (70 R267),
else the next word the host offers; with none offered the CORE "simply waits ... with all state retained" (60 R239). -/
def tick (s : State) : Out :=
  if busy s.phase then micro s
  else
    match s.cmdIn with
    | [] => .next s
    | w :: ws => accept w { s with cmdIn := ws }

/-- The reset input is asserted (70 R261, R262): an executing command is abandoned, without a response. -/
def assertReset (s : State) : Out := .next (applyReset s)

/-- The moments of later assertions, with those due at once left out. -/
def notDue : List Nat → List Nat
  | 0 :: rest => notDue rest
  | rest => rest

/-- The same machine with no command executing. -/
def atRest (s : State) : State :=
  if busy s.phase then { s with phase := .idle, mop := none, ctrS := none, ctrI := none, ctrD := none, ctrK := none } else s

/-- The host offers `w` next, ahead of what it would have offered; nothing executes and no reset is due. -/
def offer (w : Word) (s : State) : State :=
  { atRest s with cmdIn := w :: (atRest s).cmdIn, rstIn := notDue (atRest s).rstIn }

end Sys2Proof.Machine
end

