-- ==== Sys2Proof/Machine/Step.lean ====
section
/-! DEFINITION. One step of the machine, and the placing of a word where the next step takes it. -/

namespace Sys2Proof.Machine

open Sys2Proof

/-- One step: the reset input where it is due, else a step of the sequencer or of the command port (70 R260 to R262). -/
def step (s : State) : Host.Outcome State Fault Refusal :=
  match s.rstIn with
  | [] => tick s
  | 0 :: rest => assertReset { s with rstIn := rest }
  | (n + 1) :: rest => tick { s with rstIn := n :: rest }

/-- `s` with the word `w` of `nbits` bits offered next, so that the very next step accepts it (log 4). -/
def State.withFetchWord (s : State) (nbits w : Nat) : State := offer (BitVec.ofNat 32 (w % 2 ^ nbits)) s

end Sys2Proof.Machine
end

