-- ==== Sys2Proof/Rules.lean ====
section
/-! DEFINITION. The names the spec gives to derived quantities, as statements use them: the register output sequences g1
and g2 (40_generator R139), rotations (00_scope R18), the product `P_s(d)` (41_correlator R172), and the first error of a
command word in the order of 60_exceptions R228. -/

namespace Sys2Proof.Machine

open Sys2Proof

/-- `g1(n)`: `TOP[9]` at the start of step `n` counted from `g_init` (40_generator R139). -/
def g1 (n : Nat) : Bool := (regAfter topNext n allOnes).getLsbD 9

/-- `g2(n)`: `BOT[9]` at the start of step `n` counted from `g_init` (40_generator R139). -/
def g2 (n : Nat) : Bool := (regAfter botNext n allOnes).getLsbD 9

/-- The number of chip steps before chip `(s, i)` in one run of the generator (40_generator R136). -/
def chipStep (k : Fin 24) (i : Fin 1023) : Nat := 1023 * k.val + i.val

/-- `(i - d) mod 1023` (00_scope R18). -/
def backBy (d : Nat) (i : Fin 1023) : Fin 1023 := ⟨(i.val + (1023 - d % 1023)) % 1023, Nat.mod_lt _ (by omega)⟩

/-- `t = rotr^d(u)`: `t[i] = u[(i - d) mod 1023]` (00_scope R18). -/
def IsRotr {α : Type} (d : Nat) (t u : Tab α 1023) : Prop := ∀ i : Fin 1023, t.get i = u.get (backBy d i)

/-- `dot(U, V)`, the sum over the 1023 positions (00_scope R19, 41_correlator R163). -/
def dotSum (x : Fin 1023 → BitVec 5) (b : Fin 1023 → Bipolar) : Int :=
  ∑ i : Fin 1023, sampleInt (x i) * bipolarInt (b i)

/-- `P_s(d)`: the sum over `k` of `SAMP[k] × BIP0[s][(k - d) mod 1023]` (41_correlator R172). -/
def product (x : Fin 1023 → BitVec 5) (b : Fin 1023 → Bipolar) (d : Nat) : Int :=
  dotSum x fun i => b (backBy d i)

/-- A product crosses a threshold (41_correlator R172). -/
def Crosses (p : Int) : Prop := 828 ≤ p ∨ p ≤ -828

/-- The rotation a result register reports: its offset where it is FOUND, none otherwise (41_correlator R171). -/
def shiftOf (r : Result) : Nat := if r.status = .found then r.offset.toNat else 0

/-- The detection record of a result register that is FOUND (10_state R31). -/
def recordOf (k : Fin 24) (r : Result) : Option DetRecord :=
  if r.status = .found then some ⟨satId k, r.bit, r.offset⟩ else none

/-- The word of a detection record: `status` is always 1 on the detection port (30_encoding R105). -/
def detWord (r : DetRecord) : Word := recordWord ⟨.found, r.bit, r.offset⟩ r.id

/-- The conditions of 60_exceptions R228 on a command word in a state, each with its error, in the order of that rule. The
conditions are those of R220 to R227, read from the word's own fields. -/
def errorConditions (w : Word) (s : State) : List (Bool × Err) :=
  let op := bits w 31 28
  [(decide (s.phase = .fault ∧ op ≠ 0x1 ∧ op ≠ 0x5), .faulted),
   (decide (0xB ≤ op), .opcode),
   (opcodeRows.any fun r => decide (r.op = op) && !r.encodes w, .field),
   (decide ((op = 0x4 ∧ s.phase ≠ .ready) ∨ ((op = 0x7 ∨ op = 0x8) ∧ s.phase ≠ .ready ∧ s.phase ≠ .done)), .seq),
   (decide (((op = 0x6 ∨ op = 0xA) ∧ 23 < bits w 4 0) ∨ ((op = 0x7 ∨ op = 0x8) ∧ 23 < bits w 14 10) ∨
      ((op = 0x2 ∨ op = 0x7 ∨ op = 0x8 ∨ op = 0x9) ∧ 1022 < bits w 9 0)), .index),
   (decide (op = 0x2 ∧ (sext5 (bits w 20 16) < -9 ∨ 9 < sext5 (bits w 20 16))), .range),
   ((decide (op = 0x4) && !sfull s) || (decide (op = 0x9) && s.svalid.cells[bits w 9 0]? == some false), .uninit)]

/-- "exactly one is reported, the first in this order" (60_exceptions R228). -/
def firstError (w : Word) (s : State) : Option Err := ((errorConditions w s).find? (fun c => c.1)).map (fun c => c.2)

/-- The error responses' states: `E_FAULTED` changes nothing but the response, the others enter FAULT (60_exceptions R227,
R229). -/
def errorState (e : Err) (s : State) : State :=
  respond (errWord e) (if e = .faulted then s else latch e s)

/-- The reset schedule after a step in which no reset is due. -/
def later : List Nat → List Nat
  | [] => []
  | n :: rest => (n - 1) :: rest

/-- The reset schedule after `k` steps in which no reset is due. -/
def laterBy (k : Nat) : List Nat → List Nat
  | [] => []
  | n :: rest => (n - k) :: rest

/-- The phases in which `NOP`, `LDS`, `GEN`, `RDR`, `RDS` and `RDT` execute: IDLE, READY, DONE (42_host_commands R200). -/
def Accepting (s : State) : Prop := s.phase = .idle ∨ s.phase = .ready ∨ s.phase = .done

/-- The phases in which `RDC` and `RDB` execute: READY, DONE (42_host_commands R200). -/
def TablesReadable (s : State) : Prop := s.phase = .ready ∨ s.phase = .done

/-- An `ACQ` is legal and finds every value it reads: the samples `x`, each in -9..9, and the bipolar rows `b`
(41_correlator R169, 10_state R27, R28). -/
def Window (s : State) (x : Fin 1023 → BitVec 5) (b : Fin 24 → Fin 1023 → Bipolar) : Prop :=
  s.phase = .ready ∧ (∀ i, s.svalid.get i = true) ∧ (∀ i, s.samp.get i = some (x i)) ∧
    (∀ i, -9 ≤ sampleInt (x i) ∧ sampleInt (x i) ≤ 9) ∧ ∀ k i, read2 s.bip k i = some (b k i)

/-- The offset `d` is the first of 0..1022 whose product crosses a threshold (41_correlator R172). -/
def FirstCrossing (p : Nat → Int) (d : Nat) : Prop := d < 1023 ∧ Crosses (p d) ∧ ∀ e, e < d → ¬Crosses (p e)

/-- No register but `PHASE` and `ERR` changed: the shift registers, the accumulator, the sequencer's position, and `TAP`. -/
def SameRegisters (s t : State) : Prop :=
  t.top = s.top ∧ t.bot = s.bot ∧ t.acc = s.acc ∧ t.ctrS = s.ctrS ∧ t.ctrI = s.ctrI ∧ t.ctrD = s.ctrD ∧
    t.ctrK = s.ctrK ∧ t.mop = s.mop ∧ t.tap = s.tap

/-- No element of a generated table, no result and no log entry changed. -/
def SameTables (s t : State) : Prop :=
  (∀ k i, read2 t.chip k i = read2 s.chip k i) ∧ (∀ k i, read2 t.bip k i = read2 s.bip k i) ∧
    (∀ k, t.res.get k = s.res.get k) ∧ t.detlog = s.detlog

/-- No sample and no valid mark changed. -/
def SameSamples (s t : State) : Prop :=
  ∀ i, t.samp.get i = s.samp.get i ∧ t.svalid.get i = s.svalid.get i

/-- The host's side is as before: what it will send, when it asserts reset, and what the detection port has carried. -/
def SameHost (s t : State) : Prop := t.cmdIn = s.cmdIn ∧ t.rstIn = s.rstIn ∧ t.det = s.det

/-- `PHASE` and `ERR` are unchanged, or error entry has set them: FAULT, the first error kept (60_exceptions R229). -/
def SameOrError (s t : State) : Prop :=
  (t.phase = s.phase ∧ t.err = s.err) ∨ (t.phase = .fault ∧ (s.err ≠ .none → t.err = s.err))

end Sys2Proof.Machine
end

