-- ==== Sys2Proof/Safety.lean ====
section
/-! DEFINITION. What counts as a safe state and a safe run (60_exceptions R231), and the invariants of 10_state R33, R35,
R37 and the rules they rest on, in the form every step keeps. -/

namespace Sys2Proof

open Sys2Proof.Machine

/-- "A model's safety predicate is `ERR = 0`" (60_exceptions R231). -/
def Safe (s : State) : Prop := s.err = .none

/-- "no response had bit 31 set" (60_exceptions R231, 30_encoding R103). -/
def NoErrorResponse (s : State) : Prop := ∀ w ∈ s.rsp, w.getLsbD 31 = false

/-- "`ERR != 0` if and only if `PHASE = FAULT`" (10_state R33), and `E_FAULTED` is never latched (60_exceptions R220). -/
def LatchInv (s : State) : Prop := (s.err ≠ .none ↔ s.phase = .fault) ∧ s.err ≠ .faulted

/-- A sample holds a value exactly where `SVALID` says so, every one is in -9..9, and a search runs on a full window
(10_state R27, R28, R37). -/
def SampleInv (s : State) : Prop :=
  (∀ i : Fin 1023, s.svalid.get i = false → s.samp.get i = none) ∧
    (∀ i : Fin 1023, s.svalid.get i = true →
      ∃ v, s.samp.get i = some v ∧ -9 ≤ sampleInt v ∧ sampleInt v ≤ 9) ∧
    (s.phase = .acqRun → sfull s = true)

/-- No counter and no micro-operation holds a value (93 U9). -/
def CountersAbsent (s : State) : Prop :=
  s.mop = none ∧ s.ctrS = none ∧ s.ctrI = none ∧ s.ctrD = none ∧ s.ctrK = none

/-- The generator's position: before `g_init`, or at a micro-operation with its counters and registers written. -/
def GenPosition (s : State) : Prop :=
  s.ctrD = none ∧ s.ctrK = none ∧
    ((s.mop = some .gInit ∧ s.ctrS = none ∧ s.ctrI = none) ∨
      ((∃ k, s.ctrS = some k) ∧ (∃ i, s.ctrI = some i) ∧ (∃ x, s.top = some x) ∧ (∃ y, s.bot = some y) ∧
        (s.mop = some .gChip ∨ s.mop = some .gTop ∨ s.mop = some .gBot ∨ s.mop = some .gMap)))

/-- The correlator's position: a satellite, an offset below 1023, and what the micro-operation reads. -/
def AcqPosition (s : State) : Prop :=
  s.ctrI = none ∧ (∃ k, s.ctrS = some k) ∧ (∃ d, s.ctrD = some d ∧ d.toNat < 1023) ∧
    (s.mop = some .cClr ∨ (s.mop = some .cMac ∧ (∃ j, s.ctrK = some j) ∧ ∃ a, s.acc = some a) ∨
      (s.mop = some .cDecide ∧ ∃ a, s.acc = some a) ∨ s.mop = some .cRot)

/-- The sequencer's position is one of the phase it is in; at rest it holds no value (10_state R35, 93 U9). -/
def PositionInv (s : State) : Prop :=
  match s.phase with
  | .idle => CountersAbsent s
  | .genRun => GenPosition s
  | .ready => CountersAbsent s
  | .acqRun => AcqPosition s
  | .done => CountersAbsent s
  | .fault => CountersAbsent s

/-- The result registers (10_state R30): no bit and no offset where not FOUND, an offset in 0..1022; after an `ACQ` none is
NONE (41_correlator R169), and during one none of the satellites already searched is. -/
def ResultInv (s : State) : Prop :=
  (∀ k, (s.res.get k).status ≠ .found → (s.res.get k).bit = false ∧ (s.res.get k).offset = 0) ∧
    (∀ k, (s.res.get k).offset.toNat ≤ 1022) ∧
    (s.phase = .done → ∀ k, (s.res.get k).status ≠ .none) ∧
    (s.phase = .acqRun → ∀ k l, s.ctrS = some k → l < k → (s.res.get l).status ≠ .none)

/-- The detection log: identities 1..24, offsets 0..1022 (10_state R31). -/
def LogInv (s : State) : Prop := ∀ r ∈ s.detlog, 1 ≤ r.id ∧ r.id ≤ 24 ∧ r.offset.toNat ≤ 1022

/-- The first `n` chips of the run are written (40_generator R136). -/
def ChipsTo (n : Nat) (s : State) : Prop :=
  ∀ k i, chipStep k i < n → read2 s.chip k i = read2 (genChip s.tap) k i

/-- The first `n` bipolar elements are written (40_generator R136). -/
def BipsTo (n : Nat) (s : State) : Prop :=
  ∀ k i, chipStep k i < n → read2 s.bip k i = read2 (genBip (genChip s.tap)) k i

/-- The shift registers hold the values of steps `m` and `n` (40_generator R133, R134). -/
def RegsAt (m n : Nat) (s : State) : Prop :=
  s.top = some (regAfter topNext m allOnes) ∧ s.bot = some (regAfter botNext n allOnes)

/-- What the generator has written when its micro-operation `m` at `(k, i)` comes next. -/
def GenProgress (m : MicroOp) (k : Fin 24) (i : Fin 1023) (s : State) : Prop :=
  match m with
  | .gChip => ChipsTo (chipStep k i) s ∧ RegsAt (chipStep k i) (chipStep k i) s
  | .gTop => ChipsTo (chipStep k i + 1) s ∧ RegsAt (chipStep k i) (chipStep k i) s
  | .gBot => ChipsTo (chipStep k i + 1) s ∧ RegsAt (chipStep k i + 1) (chipStep k i) s
  | .gMap => s.chip = genChip s.tap ∧ BipsTo (chipStep k i) s
  | .gInit => True
  | .cClr => True
  | .cMac => True
  | .cDecide => True
  | .cRot => True

/-- Row `k` of `BIP` is the canonical row rotated right by `d` (10_state R26, 41_correlator R171). -/
def RowRotated (d : Nat) (k : Fin 24) (s : State) : Prop :=
  IsRotr d (s.bip.get k) ((genBip (genChip s.tap)).get k)

/-- The chip tables: in READY canonical, in DONE rotated by what each result reports, during a command as far as it has
come; with no completed `GEN` nothing is said of them (10_state R25, R26, R32, 41_correlator R171). -/
def TablesInv (s : State) : Prop :=
  match s.phase with
  | .idle => True
  | .genRun => ∀ m k i, s.mop = some m → s.ctrS = some k → s.ctrI = some i → GenProgress m k i s
  | .ready => s.chip = genChip s.tap ∧ s.bip = genBip s.chip
  | .acqRun => s.chip = genChip s.tap ∧ ∀ k d, s.ctrS = some k → s.ctrD = some d →
      RowRotated d.toNat k s ∧ (∀ l, l < k → RowRotated (shiftOf (s.res.get l)) l s) ∧ (∀ l, k < l → RowRotated 0 l s)
  | .done => s.chip = genChip s.tap ∧ ∀ l, RowRotated (shiftOf (s.res.get l)) l s
  | .fault => True

/-- Everything the machine keeps true. -/
structure Inv (s : State) : Prop where
  latch : LatchInv s
  sample : SampleInv s
  position : PositionInv s
  result : ResultInv s
  log : LogInv s
  tables : TablesInv s

end Sys2Proof
end

