-- ==== Sys2Proof/Certificates/Slice0/Obligations.lean ====
section
/-! DEFINITION. What is claimed of the CORE: the numbered rules of spec/ that say what a command or the machine does. -/

open Sys2Proof Sys2Proof.Machine

/-! ### Encoding -/

/-- 30_encoding R97, R98, R102: decoding the word of a well-formed command gives the command back, with every operand. -/
def Obligations.DecodeOfEncode : Prop := ∀ i : Instr, i.WellFormed → decode (encode i) = .ok i

/-- 30_encoding R92 to R97: a word that decodes is the word of the command it decodes to, whose operands all fit. -/
def Obligations.EncodeOfDecode : Prop := ∀ (w : Word) (i : Instr), decode w = .ok i → i.WellFormed ∧ encode i = w

/-- 30_encoding R98: the opcode map's masks say which words are commands. -/
def Obligations.DecodeMatchesOpcodeMap : Prop :=
  ∀ (w : Word) (r : OpcodeRow), r ∈ opcodeRows → (r.encodes w = true ↔ ∃ i, decode w = .ok i ∧ opcode i = r.op)

/-- 30_encoding R101: every word is exactly one of a well-formed command, a reserved-opcode word, a reserved-bits word. -/
def Obligations.EveryWordIsClassified : Prop :=
  ∀ w : Word,
    ((∃ i, decode w = .ok i) ↔ ∃ r ∈ opcodeRows, r.encodes w = true) ∧
    (decode w = .error .opcode ↔ 0xB ≤ bits w 31 28) ∧
    (decode w = .error .field ↔ bits w 31 28 < 0xB ∧ ∀ r ∈ opcodeRows, r.op = bits w 31 28 → r.encodes w = false)

/-- 30_encoding R108: the worked encodings, read both ways. -/
def Obligations.WorkedEncodings : Prop :=
  ∀ p ∈ ([(.nop, 0x00000000#32), (.rst, 0x10000000#32), (.lds 0 1, 0x20010000#32), (.lds 5 (-1), 0x201F0005#32),
      (.lds 1022 (-9), 0x201703FE#32), (.lds 7 0, 0x20000007#32), (.gen, 0x30000000#32), (.acq, 0x40000000#32),
      (.rdstat, 0x50000000#32), (.rdr 5, 0x60000005#32), (.rdc 0 9, 0x70000009#32), (.rdc 23 1022, 0x70005FFE#32),
      (.rdb 5 17, 0x80001411#32), (.rds 1022, 0x900003FE#32), (.rdt 23, 0xA0000017#32)] : List (Instr × Word)),
    decode p.2 = .ok p.1 ∧ encode p.1 = p.2

/-! ### The step, the port, reset -/

/-- 70 R260, 42 R190: with no command executing and no reset due, a step takes the next word the host offers and runs the
command it decodes to; around `exec` it moves past the word and moves the reset schedule on by one. The queue of words and
the reset schedule are the model's form of the host (logs 4 and 5). -/
def Obligations.StepRunsDecodedCommand : Prop :=
  ∀ (s : State) (w : Word) (ws : List Word) (i : Instr), busy s.phase = false → s.rstIn.head? ≠ some 0 →
    s.cmdIn = w :: ws → decode w = .ok i → step s = exec i { s with cmdIn := ws, rstIn := later s.rstIn }

/-- 70 R267, 60 R239: while a command executes the port takes no word and no response appears but the command's own at its
end; at rest with no word offered and no reset coming, all state is retained. The queue of words and the reset schedule are
the model's form of the host (logs 4 and 5). -/
def Obligations.PortHoldsAndWaits : Prop :=
  (∀ s t : State, busy s.phase = true → s.rstIn.head? ≠ some 0 → step s = .next t →
    t.cmdIn = s.cmdIn ∧ t.rstIn = later s.rstIn ∧
      ((busy t.phase = true ∧ t.rsp = s.rsp) ∨ (busy t.phase = false ∧ t.rsp = s.rsp ++ [0#32]))) ∧
  (∀ s : State, busy s.phase = false → s.cmdIn = [] → s.rstIn = [] → step s = .next s)

/-- 70 R261, R262: the reset input acts in every phase, also inside a command, without a response; it retracts nothing the
ports have carried and leaves `TAP` alone. What reset leaves unspecified holds no value (10_state R40, log 1). That a word
offered in that very step stays offered is the model's choice (log 5). -/
def Obligations.ResetInputActsAtOnce : Prop :=
  ∀ (s : State) (rest : List Nat), s.rstIn = 0 :: rest → ∃ t, step s = .next t ∧
    t.phase = .idle ∧ t.err = .none ∧ (∀ i, t.svalid.get i = false) ∧ (∀ k, t.res.get k = Result.none) ∧ t.detlog = [] ∧
    t.top = none ∧ t.bot = none ∧ t.acc = none ∧ (∀ k i, read2 t.chip k i = none) ∧ (∀ k i, read2 t.bip k i = none) ∧
    (∀ i, t.samp.get i = none) ∧ CountersAbsent t ∧
    t.tap = s.tap ∧ t.rsp = s.rsp ∧ t.det = s.det ∧ t.cmdIn = s.cmdIn ∧ t.rstIn = rest

/-- 10_state R39, R34: the values after reset the spec gives, and `STAT` of zero. -/
def Obligations.ResetValues : Prop :=
  State.reset.phase = .idle ∧ State.reset.err = .none ∧ (∀ i, State.reset.svalid.get i = false) ∧
    (∀ k, State.reset.res.get k = ⟨.none, false, 0⟩) ∧ State.reset.detlog = [] ∧ statWord State.reset = 0#32

/-! ### Errors -/

/-- 60_exceptions R228: of the conditions that hold for a word, the first in the rule's order is the one reported, and with
none of them the command runs and its response carries no error flag. -/
def Obligations.PriorityOfErrors : Prop :=
  ∀ (w : Word) (s : State), busy s.phase = false →
    (∀ e, firstError w s = some e → accept w s = .next (errorState e s)) ∧
    (firstError w s = none → ∃ i, decode w = .ok i ∧ accept w s = exec i s ∧
      ∀ t r, exec i s = .next t → t.rsp = s.rsp ++ [r] → r.getLsbD 31 = false)

/-- 60_exceptions R229: error entry keeps the first code, enters FAULT, responds with this command's code and changes
nothing else; the latch is non-zero on entry only for `RST` or `RDSTAT` with a reserved bit set. -/
def Obligations.ErrorEntry : Prop :=
  (∀ (e : Err) (s : State), e ≠ .none → e ≠ .faulted → ∃ t, raise e s = .next t ∧
    t.phase = .fault ∧ (s.err = .none → t.err = e) ∧ (s.err ≠ .none → t.err = s.err) ∧
    t.rsp = s.rsp ++ [BitVec.ofNat 32 (0x80000000 + errCode e)] ∧
    SameRegisters s t ∧ SameTables s t ∧ SameSamples s t ∧ SameHost s t) ∧
  (∀ (w : Word) (e : Err) (s : State), LatchInv s → busy s.phase = false → firstError w s = some e → e ≠ .faulted →
    s.err ≠ .none → e = .field ∧ (bits w 31 28 = 0x1 ∨ bits w 31 28 = 0x5))

/-- 60_exceptions R227: in FAULT everything but `RST` and `RDSTAT` is answered `0x80000007` and changes no state. -/
def Obligations.FaultedRefusal : Prop :=
  ∀ s : State, s.phase = .fault →
    (∀ w : Word, bits w 31 28 ≠ 0x1 → bits w 31 28 ≠ 0x5 → accept w s = .next { s with rsp := s.rsp ++ [0x80000007#32] }) ∧
    (∀ i : Instr, i ≠ .rst → i ≠ .rdstat → exec i s = .next { s with rsp := s.rsp ++ [0x80000007#32] })

/-- 30_encoding R99, R100, 60_exceptions R221, R222: what an illegal word does, in FAULT and outside it. -/
def Obligations.IllegalWords : Prop :=
  ∀ (w : Word) (s : State), busy s.phase = false →
    (0xB ≤ bits w 31 28 → s.phase ≠ .fault →
      accept w s = .next (respond 0x80000001#32 { s with err := if s.err = .none then .opcode else s.err, phase := .fault })) ∧
    (0xB ≤ bits w 31 28 → s.phase = .fault → accept w s = .next (respond 0x80000007#32 s)) ∧
    (∀ r ∈ opcodeRows, r.op = bits w 31 28 → r.encodes w = false →
      (s.phase ≠ .fault → accept w s =
        .next (respond 0x80000002#32 { s with err := if s.err = .none then .field else s.err, phase := .fault })) ∧
      (s.phase = .fault → LatchInv s → (bits w 31 28 = 0x1 ∨ bits w 31 28 = 0x5) →
        accept w s = .next (respond 0x80000002#32 s)))

/-- 60_exceptions R223: `ACQ` in IDLE or DONE, `RDC` and `RDB` in IDLE, whatever their operands. -/
def Obligations.WrongPhaseError : Prop :=
  ∀ (s : State) (n i : Nat),
    (s.phase = .idle ∨ s.phase = .done → exec .acq s = .next (errorState .seq s)) ∧
    (s.phase = .idle → exec (.rdc n i) s = .next (errorState .seq s) ∧ exec (.rdb n i) s = .next (errorState .seq s))

/-- 60_exceptions R224, 20_memory R61: an index out of range, in every phase in which the command is legal. -/
def Obligations.IndexOutOfRangeError : Prop :=
  ∀ (s : State) (n i : Nat) (v : Int),
    (Accepting s → 1022 < i → exec (.lds i v) s = .next (errorState .index s) ∧
      exec (.rds i) s = .next (errorState .index s)) ∧
    (Accepting s → 23 < n → exec (.rdr n) s = .next (errorState .index s) ∧ exec (.rdt n) s = .next (errorState .index s)) ∧
    (TablesReadable s → 23 < n ∨ 1022 < i → exec (.rdc n i) s = .next (errorState .index s) ∧
      exec (.rdb n i) s = .next (errorState .index s))

/-- 60_exceptions R225: `LDS` with a value outside -9..9, and the 5-bit patterns those are. -/
def Obligations.SampleOutOfRangeError : Prop :=
  (∀ (s : State) (i : Nat) (v : Int), Accepting s → i ≤ 1022 → v < -9 ∨ 9 < v →
    exec (.lds i v) s = .next (errorState .range s)) ∧
  (∀ p : Nat, p < 32 → ((sext5 p < -9 ∨ 9 < sext5 p) ↔ (0b01010 ≤ p ∧ p ≤ 0b01111) ∨ (0b10000 ≤ p ∧ p ≤ 0b10110)))

/-- 60_exceptions R226: `ACQ` in READY with a sample missing, `RDS i` of a sample never written. -/
def Obligations.UnwrittenSampleError : Prop :=
  ∀ (s : State) (i : Fin 1023), s.svalid.get i = false →
    (s.phase = .ready → exec .acq s = .next (errorState .uninit s)) ∧
    (Accepting s → exec (.rds i.val) s = .next (errorState .uninit s))

/-- 60_exceptions R231, 10_state R33: only the reset input or a well-formed `RST` leaves FAULT or changes a latched code. -/
def Obligations.FaultLeftOnlyByReset : Prop :=
  ∀ s t : State, step s = .next t → (s.phase = .fault ∧ t.phase ≠ .fault) ∨ (s.err ≠ .none ∧ t.err ≠ s.err) →
    (∃ rest, s.rstIn = 0 :: rest) ∨ ∃ ws, s.cmdIn = 0x10000000#32 :: ws

/-- 30_encoding R103: an accepted command produces exactly one response word; bit 31 is the error flag, an error response is
`0x80000000 + code`, and a command that returns no data responds zero. With a reset coming a `GEN` or `ACQ` responds at its
end instead, or not at all (70 R262). -/
def Obligations.ExactlyOneResponse : Prop :=
  ∀ (w : Word) (s t : State), busy s.phase = false → s.rstIn = [] → accept w s = .next t →
    ∃ r, t.rsp = s.rsp ++ [r] ∧ (r.getLsbD 31 = true ↔ ∃ e, firstError w s = some e) ∧
      (∀ e, firstError w s = some e → r = BitVec.ofNat 32 (0x80000000 + errCode e)) ∧
      (firstError w s = none → bits w 31 28 ≤ 0x4 → r = 0#32)

/-- 60_exceptions R231: from a safe state of a safe history a step stays safe exactly where it produces no error response. -/
def Obligations.SafeWhileNoErrorResponse : Prop :=
  ∀ s t : State, Inv s → Safe s → NoErrorResponse s → step s = .next t → (Safe t ↔ NoErrorResponse t)

/-! ### Results of the commands -/

/-- 42 R191: `NOP` responds and does nothing else. -/
def Obligations.NopResponds : Prop :=
  ∀ s : State, Accepting s → exec .nop s = .next { s with rsp := s.rsp ++ [0#32] }

/-- 42 R192, 70 R261: `RST` in every phase in which no command executes, FAULT included. The model's fields for the host's
side are unchanged but for the response (logs 4 to 6). -/
def Obligations.RstResets : Prop :=
  ∀ s : State, busy s.phase = false → exec .rst s = .next { State.reset with
    tap := s.tap, cmdIn := s.cmdIn, rstIn := s.rstIn, det := s.det, rsp := s.rsp ++ [0#32] }

/-- 42 R193, 10_state R28: `LDS` writes one sample and its mark; `SFULL` becomes 1 when it sets the last clear mark. -/
def Obligations.LdsWritesSample : Prop :=
  ∀ (s : State) (i : Fin 1023) (v : Int), Accepting s → -9 ≤ v → v ≤ 9 → ∃ t, exec (.lds i.val v) s = .next t ∧
    (∃ x, t.samp.get i = some x ∧ sampleInt x = v) ∧ t.svalid.get i = true ∧
    (∀ j, j ≠ i → t.samp.get j = s.samp.get j ∧ t.svalid.get j = s.svalid.get j) ∧
    (sfull t = true ↔ ∀ j, j ≠ i → s.svalid.get j = true) ∧
    t.rsp = s.rsp ++ [0#32] ∧ t.phase = s.phase ∧ t.err = s.err ∧
    SameRegisters s t ∧ SameTables s t ∧ SameHost s t

/-- 42 R194, 10_state R34: `RDSTAT` responds `STAT` in every phase the host can see, and the fields of `STAT`. -/
def Obligations.RdstatRespondsStatus : Prop :=
  ∀ s : State,
    (busy s.phase = false → exec .rdstat s = .next { s with rsp := s.rsp ++ [statWord s] }) ∧
    bits (statWord s) 2 0 = phaseCode s.phase ∧ bits (statWord s) 6 3 = errCode s.err ∧
    ((∀ i, s.svalid.get i = true) → bits (statWord s) 7 7 = 1) ∧
    (∀ i, s.svalid.get i = false → bits (statWord s) 7 7 = 0) ∧
    bits (statWord s) 12 8 = (Finset.univ.filter fun k => (s.res.get k).status = .found).card ∧
    bits (statWord s) 31 13 = 0 ∧ statWord State.reset = 0#32

/-- 42 R195, R199: `RDR` responds the result record of its satellite, `RDT` its tap pair. -/
def Obligations.RdrAndRdtRespond : Prop :=
  ∀ (s : State) (k : Fin 24), Accepting s →
    exec (.rdr k.val) s = .next { s with rsp := s.rsp ++ [BitVec.ofNat 32 (statusCode (s.res.get k).status +
      4 * bitNat (s.res.get k).bit + 8 * (s.res.get k).offset.toNat + 8192 * (k.val + 1))] } ∧
    exec (.rdt k.val) s = .next { s with rsp := s.rsp ++ [BitVec.ofNat 32 ((s.tap.get k).a.val + 16 * (s.tap.get k).b.val)] }

/-- 30_encoding R105: the fields of a record word, and the word a detection puts on the detection port. -/
def Obligations.RecordFields : Prop :=
  (∀ (r : Result) (id : Nat), id ≤ 24 →
    bits (recordWord r id) 1 0 = statusCode r.status ∧ bits (recordWord r id) 2 2 = bitNat r.bit ∧
    bits (recordWord r id) 12 3 = r.offset.toNat ∧ bits (recordWord r id) 17 13 = id ∧ bits (recordWord r id) 31 18 = 0) ∧
  (∀ (k : Fin 24) (bit : Bool) (d : BitVec 10) (s : State), ∃ w, (emitFound k bit d s).det = s.det ++ [w] ∧
    bits w 1 0 = 1 ∧ bits w 2 2 = bitNat bit ∧ bits w 12 3 = d.toNat ∧ bits w 17 13 = k.val + 1 ∧ bits w 31 18 = 0) ∧
  recordWord ⟨.found, true, 17⟩ 6 = 0x0000C08D#32

/-- 42 R196, R197: `RDC` and `RDB` respond the element they name, in READY and in DONE. -/
def Obligations.RdcAndRdbRespond : Prop :=
  ∀ (s : State) (k : Fin 24) (i : Fin 1023), TablesReadable s →
    (∀ c, read2 s.chip k i = some c →
      exec (.rdc k.val i.val) s = .next { s with rsp := s.rsp ++ [if c then 1#32 else 0#32] }) ∧
    (∀ c, read2 s.bip k i = some c →
      exec (.rdb k.val i.val) s = .next { s with rsp := s.rsp ++ [if c = .pos then 0x00000001#32 else 0x00000003#32] })

/-- 42 R198, 30_encoding R104: `RDS` responds the 5-bit two's-complement pattern of a written sample. -/
def Obligations.RdsResponds : Prop :=
  ∀ (s : State) (i : Fin 1023) (v : BitVec 5), Accepting s → s.svalid.get i = true → s.samp.get i = some v →
    exec (.rds i.val) s = .next { s with rsp := s.rsp ++ [BitVec.ofNat 32 (tc 5 (sampleInt v))] }

/-! ### The generator -/

/-- 40_generator R136, R137, R138: `GEN` fills both tables over the 24 × 1023 continuous steps and ends in READY with both
registers all ones; where a reset is coming it only starts, at `g_init` (the model's choice of grain, log 7). -/
def Obligations.GenFillsTables : Prop :=
  ∀ s : State, Accepting s →
    (s.rstIn = [] → ∃ t, exec .gen s = .next t ∧
      (∀ k i, read2 t.chip k i = some (chipBit (s.tap.get k) (regAfter topNext (chipStep k i) allOnes)
        (regAfter botNext (chipStep k i) allOnes))) ∧
      (∀ k i c, read2 t.chip k i = some c → read2 t.bip k i = some (bip c)) ∧
      t.top = some allOnes ∧ t.bot = some allOnes ∧ t.phase = .ready ∧ t.rsp = s.rsp ++ [0#32]) ∧
    (s.rstIn ≠ [] → exec .gen s = .next { s with phase := .genRun, mop := some .gInit })

/-- 40_generator R139: the first values of `g1` and `g2`, their recurrences and period, what every register position holds at
step `n`, and the closed form of every chip a `GEN` leaves. -/
def Obligations.ChipClosedForm : Prop :=
  (∀ n, n < 10 → g1 n = true ∧ g2 n = true) ∧
  (∀ n, g1 (n + 10) = (g1 (n + 7) ^^ g1 n)) ∧
  (∀ n, g2 (n + 10) = (g2 (n + 8) ^^ g2 (n + 7) ^^ g2 (n + 4) ^^ g2 (n + 2) ^^ g2 (n + 1) ^^ g2 n)) ∧
  (∀ n, g1 (n + 1023) = g1 n ∧ g2 (n + 1023) = g2 n) ∧
  ((List.range 32).map (fun n => bitNat (g1 n)) =
    [1, 1, 1, 1, 1, 1, 1, 1, 1, 1, 0, 0, 0, 1, 1, 1, 0, 0, 0, 1, 0, 0, 1, 1, 1, 0, 1, 1, 0, 0, 1, 0]) ∧
  ((List.range 32).map (fun n => bitNat (g2 n)) =
    [1, 1, 1, 1, 1, 1, 1, 1, 1, 1, 0, 0, 1, 0, 1, 1, 0, 1, 0, 0, 1, 0, 1, 0, 1, 1, 1, 1, 0, 1, 0, 1]) ∧
  (∀ n p, p < 10 → (regAfter topNext n allOnes).getLsbD p = g1 (n + 9 - p) ∧
    (regAfter botNext n allOnes).getLsbD p = g2 (n + 9 - p)) ∧
  (∀ s t : State, Accepting s → s.rstIn = [] → exec .gen s = .next t → ∀ (k : Fin 24) (i : Fin 1023),
    read2 t.chip k i = some (g1 i.val ^^ g2 ((i.val + 9 - (s.tap.get k).a.val) % 1023) ^^
      g2 ((i.val + 9 - (s.tap.get k).b.val) % 1023)))

/-- 40_generator R138: each register passes through all 1023 non-zero values once per period, first returning to all ones
after 1023 steps, and never holds all zeros. -/
def Obligations.RegisterPeriod : Prop :=
  ∀ f : ShiftReg → ShiftReg, f = topNext ∨ f = botNext →
    regAfter f 1023 allOnes = allOnes ∧ (∀ n, 0 < n → n < 1023 → regAfter f n allOnes ≠ allOnes) ∧
    (∀ n, regAfter f n allOnes ≠ 0) ∧ (∀ x : ShiftReg, x ≠ 0 → ∃ n, n < 1023 ∧ regAfter f n allOnes = x)

/-- 40_generator R142: a pair with equal positions gives the top register's own sequence, equal or swapped pairs give equal
sequences, and equal rows are reported alike by the correlator. -/
def Obligations.DegenerateTapPairs : Prop :=
  (∀ s t : State, Accepting s → s.rstIn = [] → exec .gen s = .next t → ∀ k l : Fin 24,
    ((s.tap.get k).a = (s.tap.get k).b → ∀ i : Fin 1023, read2 t.chip k i = some (g1 i.val)) ∧
    (s.tap.get k = s.tap.get l ∨ ((s.tap.get k).a = (s.tap.get l).b ∧ (s.tap.get k).b = (s.tap.get l).a) →
      ∀ i, read2 t.chip k i = read2 t.chip l i)) ∧
  (∀ s t : State, s.phase = .ready → s.rstIn = [] → exec .acq s = .next t → t.phase = .done → ∀ k l : Fin 24,
    (∀ i, read2 s.bip k i = read2 s.bip l i) → t.res.get k = t.res.get l)

/-! ### The correlator -/

/-- 41_correlator R169, R172: what `ACQ` leaves in each result register, the product of every offset being `P_s(d)`; where a
reset is coming it only starts, at `c_clr` of satellite 0 (the model's choice of grain, log 7). -/
def Obligations.AcqReportsFirstCrossing : Prop :=
  ∀ (s : State) (x : Fin 1023 → BitVec 5) (b : Fin 24 → Fin 1023 → Bipolar), Window s x b →
    (s.rstIn = [] → ∃ t, exec .acq s = .next t ∧ t.phase = .done ∧ t.rsp = s.rsp ++ [0#32] ∧
      ∀ k : Fin 24,
        (∀ d, FirstCrossing (product x (b k)) d →
          t.res.get k = ⟨.found, decide (828 ≤ product x (b k) d), BitVec.ofNat 10 d⟩) ∧
        ((∀ d, d < 1023 → ¬Crosses (product x (b k) d)) → t.res.get k = ⟨.nosync, false, 0⟩)) ∧
    (s.rstIn ≠ [] → exec .acq s = .next { s with
      res := Tab.const 24 ⟨.none, false, 0⟩, phase := .acqRun, ctrS := some 0, ctrD := some 0, mop := some .cClr })

/-- 41_correlator R171: `ACQ` leaves the row of a satellite detected at `d` rotated right by `d`, and every other row as it
was. -/
def Obligations.AcqRotatesRows : Prop :=
  ∀ (s t : State) (x : Fin 1023 → BitVec 5) (b : Fin 24 → Fin 1023 → Bipolar), Window s x b → s.rstIn = [] →
    exec .acq s = .next t → ∀ k : Fin 24,
      ((t.res.get k).status = .found → IsRotr (t.res.get k).offset.toNat (t.bip.get k) (s.bip.get k)) ∧
      ((t.res.get k).status = .nosync → t.bip.get k = s.bip.get k)

/-- 20_memory R71, 10_state R31: an `ACQ` appends one record per detected satellite, in increasing identity, to the log and
to the detection port, and nothing else. -/
def Obligations.DetectionsInOrder : Prop :=
  ∀ s t : State, s.phase = .ready → s.rstIn = [] → exec .acq s = .next t → t.phase = .done →
    t.detlog = s.detlog ++ (List.finRange 24).filterMap (fun k => recordOf k (t.res.get k)) ∧
    t.det = s.det ++ ((List.finRange 24).filterMap (fun k => recordOf k (t.res.get k))).map detWord

/-- 41_correlator R173: an all-zero window detects nothing, and that is no error. -/
def Obligations.AllZeroDetectsNothing : Prop :=
  ∀ (s : State) (x : Fin 1023 → BitVec 5) (b : Fin 24 → Fin 1023 → Bipolar), Window s x b → s.rstIn = [] →
    (∀ i, sampleInt (x i) = 0) → ∃ t, exec .acq s = .next t ∧ t.phase = .done ∧ t.err = s.err ∧
      t.rsp = s.rsp ++ [0#32] ∧ t.detlog = s.detlog ∧ t.det = s.det ∧
      ∀ k, t.res.get k = ⟨.nosync, false, 0⟩ ∧ t.bip.get k = s.bip.get k

/-- 41_correlator R172, 40_generator R143: a window that is satellite `k`'s own row rotated right by `d`, or its negation,
has the product 1023 or -1023 at offset `d`, so satellite `k` is detected at `d` or before. -/
def Obligations.AlignedSatelliteIsDetected : Prop :=
  ∀ (s t : State) (x : Fin 1023 → BitVec 5) (b : Fin 24 → Fin 1023 → Bipolar) (k : Fin 24) (d : Nat) (sign : Int),
    Window s x b → s.rstIn = [] → d < 1023 → (sign = 1 ∨ sign = -1) →
    (∀ i, sampleInt (x i) = sign * bipolarInt (b k (backBy d i))) → exec .acq s = .next t →
    product x (b k) d = sign * 1023 ∧ (t.res.get k).status = .found ∧ (t.res.get k).offset.toNat ≤ d ∧
      ((t.res.get k).offset.toNat = d → (t.res.get k).bit = decide (sign = 1))

/-- 41_correlator R163, R170, 00_scope R14: the 16-bit accumulator holds the exact sum, at most 9207 in magnitude. -/
def Obligations.AccumulatorIsExact : Prop :=
  ∀ (s : State) (x : Fin 1023 → BitVec 5) (b : Fin 24 → Fin 1023 → Bipolar) (k : Fin 24), Window s x b →
    ∃ a, (cDot k s).acc = some a ∧ a.toInt = dotSum x (b k) ∧ -9207 ≤ dotSum x (b k) ∧ dotSum x (b k) ≤ 9207

/-- 41_correlator R160: what `ACQ` leaves in `RES`, `BIP` and `ACC` depends on the samples and the bipolar rows only. -/
def Obligations.AcqReadsSamplesAndRowsOnly : Prop :=
  ∀ s s' t t' : State, s.phase = .ready → s'.phase = .ready → s.rstIn = [] → s'.rstIn = [] →
    (∀ i, s.samp.get i = s'.samp.get i) → (∀ k i, read2 s.bip k i = read2 s'.bip k i) →
    exec .acq s = .next t → exec .acq s' = .next t' → t.phase = .done → t'.phase = .done →
    t.res = t'.res ∧ t.bip = t'.bip ∧ (t.acc = t'.acc)

/-! ### The micro-operations -/

/-- 40_generator R131, R132: `g_init` writes all ones; `g_chip` stores the chip computed from the registers before they
advance, and leaves them and every other chip alone. The position field `mop` is the model's (log 3). -/
def Obligations.MicroInitAndChip : Prop :=
  (∀ s : State, s.phase = .genRun → s.mop = some .gInit →
    micro s = .next { s with
      top := some 0b1111111111#10, bot := some 0b1111111111#10, ctrS := some 0, ctrI := some 0, mop := some .gChip }) ∧
  (∀ (s : State) (k : Fin 24) (i : Fin 1023) (x y : ShiftReg), s.phase = .genRun → s.mop = some .gChip →
    s.ctrS = some k → s.ctrI = some i → s.top = some x → s.bot = some y → ∃ t, micro s = .next t ∧
      read2 t.chip k i = some (x.getLsbD 9 ^^ (y.getLsbD (s.tap.get k).a.val ^^ y.getLsbD (s.tap.get k).b.val)) ∧
      (∀ l j, (l, j) ≠ (k, i) → read2 t.chip l j = read2 s.chip l j) ∧
      t = { s with chip := t.chip, mop := some .gTop })

/-- 40_generator R133, R134: the feedback bits, and the shift by one from the front. The position field `mop` is the model's
(log 3). -/
def Obligations.MicroShiftRegisters : Prop :=
  (∀ (s : State) (x : ShiftReg), s.phase = .genRun → s.mop = some .gTop → s.top = some x → ∃ y,
    micro s = .next { s with top := some y, mop := some .gBot } ∧
    y.getLsbD 0 = (x.getLsbD 2 ^^ x.getLsbD 9) ∧ ∀ p, p < 9 → y.getLsbD (p + 1) = x.getLsbD p) ∧
  (∀ (s : State) (k : Fin 24) (i : Fin 1023) (x : ShiftReg), s.phase = .genRun → s.mop = some .gBot →
    s.ctrS = some k → s.ctrI = some i → s.bot = some x → ∃ t y, micro s = .next t ∧ t.bot = some y ∧
      y.getLsbD 0 = (x.getLsbD 1 ^^ x.getLsbD 2 ^^ x.getLsbD 5 ^^ x.getLsbD 7 ^^ x.getLsbD 8 ^^ x.getLsbD 9) ∧
      (∀ p, p < 9 → y.getLsbD (p + 1) = x.getLsbD p) ∧
      t = { s with bot := t.bot, ctrS := t.ctrS, ctrI := t.ctrI, mop := t.mop })

/-- 40_generator R135, R136, R137: `g_map` writes one bipolar element; the loops advance element by element, then satellite
by satellite, the chip loop on into the mapping loop, and the mapping loop into READY with the response. After the final
element the counters hold no value, as 93 U9 has them at rest (log 1). The position field `mop` is the model's (log 3). -/
def Obligations.MicroMapAndLoops : Prop :=
  ∀ (s : State) (k : Fin 24) (i : Fin 1023), s.phase = .genRun → s.ctrS = some k → s.ctrI = some i →
    (∀ c, s.mop = some .gMap → read2 s.chip k i = some c → ∃ t, micro s = .next t ∧
      read2 t.bip k i = some (if c then .pos else .neg) ∧
      (∀ l j, (l, j) ≠ (k, i) → read2 t.bip l j = read2 s.bip l j) ∧
      (chipStep k i < 24552 - 1 → t.phase = .genRun ∧ t.rsp = s.rsp ∧ t.mop = some .gMap ∧ ∃ l j,
        t.ctrS = some l ∧ t.ctrI = some j ∧ chipStep l j = chipStep k i + 1) ∧
      (chipStep k i = 24552 - 1 → t.phase = .ready ∧ t.rsp = s.rsp ++ [0#32] ∧ t.mop = none ∧ t.ctrS = none ∧ t.ctrI = none)) ∧
    (∀ y, s.mop = some .gBot → s.bot = some y → ∃ t, micro s = .next t ∧
      (chipStep k i < 24552 - 1 → t.mop = some .gChip ∧ ∃ l j,
        t.ctrS = some l ∧ t.ctrI = some j ∧ chipStep l j = chipStep k i + 1) ∧
      (chipStep k i = 24552 - 1 → t.mop = some .gMap ∧ t.ctrS = some 0 ∧ t.ctrI = some 0))

/-- 41_correlator R161, R162: the accumulator is cleared, then takes one product after another, `K` advancing to 1022. The
position field `mop` is the model's (log 3). -/
def Obligations.MicroClearAndAccumulate : Prop :=
  (∀ s : State, s.phase = .acqRun → s.mop = some .cClr →
    micro s = .next { s with acc := some 0, ctrK := some 0, mop := some .cMac }) ∧
  (∀ (s : State) (k : Fin 24) (j : Fin 1023) (a : BitVec 16) (x : BitVec 5) (c : Bipolar),
    s.phase = .acqRun → s.mop = some .cMac → s.ctrS = some k → s.ctrK = some j → s.acc = some a →
    s.samp.get j = some x → read2 s.bip k j = some c → ∃ t a', micro s = .next t ∧ t.acc = some a' ∧
      (-32768 ≤ a.toInt + sampleInt x * (if c = .pos then 1 else -1) →
        a.toInt + sampleInt x * (if c = .pos then 1 else -1) < 32768 →
        a'.toInt = a.toInt + sampleInt x * (if c = .pos then 1 else -1)) ∧
      (j.val < 1022 → t.mop = some .cMac ∧ ∃ l : Fin 1023, t.ctrK = some l ∧ l.val = j.val + 1) ∧
      (j.val = 1022 → t.mop = some .cDecide ∧ t.ctrK = some j) ∧
      t = { s with acc := t.acc, ctrK := t.ctrK, mop := t.mop })

/-- 41_correlator R164, R165, R168: at 828 and above bit 1, at -828 and below bit 0, each with its result, its record and
the next satellite (after the last, DONE and the response); between them a MISS, and the rotation follows. The position
field `mop` is the model's (log 3). -/
def Obligations.MicroDecide : Prop :=
  ∀ (s : State) (k : Fin 24) (d : BitVec 10) (a : BitVec 16), s.phase = .acqRun → s.mop = some .cDecide →
    s.ctrS = some k → s.ctrD = some d → s.acc = some a → ∃ t, micro s = .next t ∧
      (828 ≤ a.toInt ∨ a.toInt ≤ -828 →
        t.res.get k = ⟨.found, decide (828 ≤ a.toInt), d⟩ ∧ (∀ l, l ≠ k → t.res.get l = s.res.get l) ∧
        t.detlog = s.detlog ++ [⟨k.val + 1, decide (828 ≤ a.toInt), d⟩] ∧ (∀ l i, read2 t.bip l i = read2 s.bip l i) ∧
        (∀ l : Fin 24, l.val = k.val + 1 → t.ctrS = some l ∧ t.ctrD = some 0 ∧ t.mop = some .cClr ∧ t.phase = .acqRun ∧
          t.rsp = s.rsp) ∧
        (k.val = 23 → t.phase = .done ∧ t.rsp = s.rsp ++ [0#32] ∧ t.mop = none)) ∧
      (-828 < a.toInt ∧ a.toInt < 828 → t = { s with mop := some .cRot })

/-- 41_correlator R166, R167: the row goes one position to the right and only that row; then the next offset, or after
offset 1022 NOSYNC. The position field `mop` is the model's (log 3). -/
def Obligations.MicroRotate : Prop :=
  ∀ (s : State) (k : Fin 24) (d : BitVec 10), s.phase = .acqRun → s.mop = some .cRot → s.ctrS = some k →
    s.ctrD = some d → ∃ t, micro s = .next t ∧
      read2 t.bip k 0 = read2 s.bip k 1022 ∧
      (∀ i j : Fin 1023, j.val = i.val + 1 → read2 t.bip k j = read2 s.bip k i) ∧
      (∀ l i, l ≠ k → read2 t.bip l i = read2 s.bip l i) ∧
      (d.toNat < 1022 → t = { s with bip := t.bip, ctrD := some (d + 1), mop := some .cClr }) ∧
      (d.toNat = 1022 → t.res.get k = ⟨.nosync, false, 0⟩ ∧ (∀ l, l ≠ k → t.res.get l = s.res.get l) ∧
        t.detlog = s.detlog ∧ t.det = s.det)

/-- 00_scope R8, 40_generator R136: with no reset due before the end, 98209 micro-operations from `g_init` reach the state
`GEN` reaches in one step. The two grains are the model's choice (log 7). -/
def Obligations.GenRunsMicroOps : Prop :=
  ∀ s : State, (∀ n rest, s.rstIn = n :: rest → 98209 ≤ n) →
    Host.Core.run core 98209 { s with phase := .genRun, mop := some .gInit } =
      .next { respond 0#32 (genDone s) with rstIn := laterBy 98209 s.rstIn } ∧
    (Accepting s → s.rstIn = [] → exec .gen s = .next (respond 0#32 (genDone s)))

/-- 00_scope R8, 41_correlator R167, R168: with no reset due before the end, at most 24 × 1023 × 1026 micro-operations from
the start of `ACQ` reach the state it reaches in one step. The two grains are the model's choice (log 7). -/
def Obligations.AcqRunsMicroOps : Prop :=
  ∀ (s : State) (x : Fin 1023 → BitVec 5) (b : Fin 24 → Fin 1023 → Bipolar), Window s x b →
    (∀ n rest, s.rstIn = n :: rest → 24 * 1023 * 1026 ≤ n) →
    (∃ n, n ≤ 24 * 1023 * 1026 ∧ Host.Core.run core n { s with
      res := Tab.const 24 ⟨.none, false, 0⟩, phase := .acqRun, ctrS := some 0, ctrD := some 0, mop := some .cClr } =
        .next { respond 0#32 (acqDone s) with rstIn := laterBy n s.rstIn }) ∧
    (s.rstIn = [] → exec .acq s = .next (respond 0#32 (acqDone s)))

/-! ### Frames -/

/-- 20_memory R65, 10_state R41: `NOP` and the six reads change nothing but the response port, and on an error `PHASE` and
`ERR`. -/
def Obligations.ReadsFrame : Prop :=
  ∀ (i : Instr) (n j : Nat) (s t : State),
    (i = .nop ∨ i = .rdstat ∨ i = .rdr n ∨ i = .rdc n j ∨ i = .rdb n j ∨ i = .rds j ∨ i = .rdt n) →
    exec i s = .next t →
    SameRegisters s t ∧ SameTables s t ∧ SameSamples s t ∧ SameHost s t ∧ SameOrError s t

/-- 42 R193, 10_state R41, 60 R229: `LDS i` changes element `i` of `SAMP` and `SVALID` and the response port; on an error, or
in FAULT, it changes no element, and beside the response `PHASE` and `ERR` at most. -/
def Obligations.LdsFrame : Prop :=
  ∀ (i : Nat) (v : Int) (s t : State), exec (.lds i v) s = .next t →
    SameRegisters s t ∧ SameTables s t ∧ SameHost s t ∧ SameOrError s t ∧
    (∀ j : Fin 1023, j.val ≠ i → t.samp.get j = s.samp.get j ∧ t.svalid.get j = s.svalid.get j) ∧
    (t.phase = .fault → SameSamples s t)

/-- 40_generator R130, R137: "State not touched: `SAMP`, `SVALID`, `RES`, `DETLOG`, `ACC`, `ERR`", nor `D`, `K`, `TAP` and the
host's side. -/
def Obligations.GenFrame : Prop :=
  ∀ s t : State, exec .gen s = .next t →
    SameSamples s t ∧ (∀ k, t.res.get k = s.res.get k) ∧ t.detlog = s.detlog ∧ t.acc = s.acc ∧ t.err = s.err ∧
    t.ctrD = s.ctrD ∧ t.ctrK = s.ctrK ∧ t.tap = s.tap ∧ SameHost s t

/-- 41_correlator R160, R169: "Not touched: `CHIP`, `TOP`, `BOT`, `SAMP`, `SVALID`", nor `I`, `TAP`, the words offered and the
reset schedule, nor `ERR` but by error entry; with an error nothing but `PHASE`, `ERR` and the response. -/
def Obligations.AcqFrame : Prop :=
  ∀ s t : State, exec .acq s = .next t →
    (∀ k i, read2 t.chip k i = read2 s.chip k i) ∧ t.top = s.top ∧ t.bot = s.bot ∧ SameSamples s t ∧ t.ctrI = s.ctrI ∧
    t.tap = s.tap ∧ t.cmdIn = s.cmdIn ∧ t.rstIn = s.rstIn ∧
    (t.phase ≠ .fault → t.err = s.err) ∧
    (t.phase = .fault → SameRegisters s t ∧ SameTables s t ∧ SameHost s t ∧ SameOrError s t)

/-! ### Invariants and rules of the whole machine -/

/-- 10_state R24: `TAP` is "never written by any micro-operation or command", and reset leaves it alone. -/
def Obligations.TapNeverWritten : Prop := ∀ s t : State, step s = .next t → t.tap = s.tap

/-- 70 R266, 20_memory R69: a search starts only from READY, and a generator run ends in READY or is reset. -/
def Obligations.GenerationBeforeCorrelation : Prop :=
  ∀ s t : State, step s = .next t →
    (t.phase = .acqRun → s.phase = .acqRun ∨ s.phase = .ready) ∧
    (t.phase = .done → s.phase = .acqRun ∨ s.phase = .ready ∨ s.phase = .done) ∧
    (s.phase = .genRun → t.phase = .genRun ∨ t.phase = .ready ∨ (t.phase = .idle ∧ ∃ rest, s.rstIn = 0 :: rest))

/-- 10_state R33: every step keeps `ERR != 0` if and only if `PHASE = FAULT`. -/
def Obligations.LatchKept : Prop := ∀ s t : State, LatchInv s → step s = .next t → LatchInv t

/-- 10_state R27, R28, R37: every step keeps the samples in -9..9, present exactly where marked, and a search on a full
window. -/
def Obligations.SamplesKept : Prop := ∀ s t : State, SampleInv s → step s = .next t → SampleInv t

/-- 10_state R35, 93 U9: every step keeps the sequencer's position one of its phase, and absent at rest: the counters "hold no
value at rest" (93 U9, log 1). The field `mop` is the model's (log 3). -/
def Obligations.PositionKept : Prop := ∀ s t : State, PositionInv s → step s = .next t → PositionInv t

/-- 10_state R30, R31: every step keeps the result registers and the log of their form. -/
def Obligations.ResultsKept : Prop :=
  ∀ s t : State, PositionInv s → ResultInv s → LogInv s → step s = .next t → ResultInv t ∧ LogInv t

/-- 10_state R25, R26, 41_correlator R171: every step keeps the chip tables what the phase says they are. -/
def Obligations.TablesKept : Prop := ∀ s t : State, Inv s → step s = .next t → TablesInv t

/-- 10_state R39: the invariant holds after reset. The counters hold no value there (10_state R40, 93 U9, log 1); the
field `mop`, absent as they are, is the model's (log 3). -/
def Obligations.InvariantAtReset : Prop := Inv State.reset

/-- 60_exceptions R230, 42 R190, 70 R267: where the invariant holds, no step stops the machine. -/
def Obligations.NoStepStops : Prop := ∀ s : State, Inv s → ∃ t, step s = .next t
end

