-- ==== Sys2Proof/Laws/State.lean ====
section
/-! SUPPORT. One lemma per field of State per named update of it, each true by rfl. -/

namespace Sys2Proof.Machine

open Sys2Proof

@[simp] theorem reset_top : State.reset.top = Option.none := rfl
@[simp] theorem reset_bot : State.reset.bot = Option.none := rfl
@[simp] theorem reset_chip : State.reset.chip = Tab.const 24 (Tab.const 1023 Option.none) := rfl
@[simp] theorem reset_bip : State.reset.bip = Tab.const 24 (Tab.const 1023 Option.none) := rfl
@[simp] theorem reset_samp : State.reset.samp = Tab.const 1023 Option.none := rfl
@[simp] theorem reset_svalid : State.reset.svalid = Tab.const 1023 false := rfl
@[simp] theorem reset_acc : State.reset.acc = Option.none := rfl
@[simp] theorem reset_res : State.reset.res = Tab.const 24 Result.none := rfl
@[simp] theorem reset_detlog : State.reset.detlog = [] := rfl
@[simp] theorem reset_phase : State.reset.phase = .idle := rfl
@[simp] theorem reset_err : State.reset.err = .none := rfl
@[simp] theorem reset_ctrS : State.reset.ctrS = Option.none := rfl
@[simp] theorem reset_ctrI : State.reset.ctrI = Option.none := rfl
@[simp] theorem reset_ctrD : State.reset.ctrD = Option.none := rfl
@[simp] theorem reset_ctrK : State.reset.ctrK = Option.none := rfl
@[simp] theorem reset_tap : State.reset.tap = Config.tGps := rfl
@[simp] theorem reset_mop : State.reset.mop = Option.none := rfl
@[simp] theorem reset_cmdIn : State.reset.cmdIn = [] := rfl
@[simp] theorem reset_rstIn : State.reset.rstIn = [] := rfl
@[simp] theorem reset_rsp : State.reset.rsp = [] := rfl
@[simp] theorem reset_det : State.reset.det = [] := rfl

@[simp] theorem respond_top (w : Word) (s : State) : (respond w s).top = s.top := rfl
@[simp] theorem respond_bot (w : Word) (s : State) : (respond w s).bot = s.bot := rfl
@[simp] theorem respond_chip (w : Word) (s : State) : (respond w s).chip = s.chip := rfl
@[simp] theorem respond_bip (w : Word) (s : State) : (respond w s).bip = s.bip := rfl
@[simp] theorem respond_samp (w : Word) (s : State) : (respond w s).samp = s.samp := rfl
@[simp] theorem respond_svalid (w : Word) (s : State) : (respond w s).svalid = s.svalid := rfl
@[simp] theorem respond_acc (w : Word) (s : State) : (respond w s).acc = s.acc := rfl
@[simp] theorem respond_res (w : Word) (s : State) : (respond w s).res = s.res := rfl
@[simp] theorem respond_detlog (w : Word) (s : State) : (respond w s).detlog = s.detlog := rfl
@[simp] theorem respond_phase (w : Word) (s : State) : (respond w s).phase = s.phase := rfl
@[simp] theorem respond_err (w : Word) (s : State) : (respond w s).err = s.err := rfl
@[simp] theorem respond_ctrS (w : Word) (s : State) : (respond w s).ctrS = s.ctrS := rfl
@[simp] theorem respond_ctrI (w : Word) (s : State) : (respond w s).ctrI = s.ctrI := rfl
@[simp] theorem respond_ctrD (w : Word) (s : State) : (respond w s).ctrD = s.ctrD := rfl
@[simp] theorem respond_ctrK (w : Word) (s : State) : (respond w s).ctrK = s.ctrK := rfl
@[simp] theorem respond_tap (w : Word) (s : State) : (respond w s).tap = s.tap := rfl
@[simp] theorem respond_mop (w : Word) (s : State) : (respond w s).mop = s.mop := rfl
@[simp] theorem respond_cmdIn (w : Word) (s : State) : (respond w s).cmdIn = s.cmdIn := rfl
@[simp] theorem respond_rstIn (w : Word) (s : State) : (respond w s).rstIn = s.rstIn := rfl
@[simp] theorem respond_rsp (w : Word) (s : State) : (respond w s).rsp = s.rsp ++ [w] := rfl
@[simp] theorem respond_det (w : Word) (s : State) : (respond w s).det = s.det := rfl

@[simp] theorem latch_top (e : Err) (s : State) : (latch e s).top = s.top := rfl
@[simp] theorem latch_bot (e : Err) (s : State) : (latch e s).bot = s.bot := rfl
@[simp] theorem latch_chip (e : Err) (s : State) : (latch e s).chip = s.chip := rfl
@[simp] theorem latch_bip (e : Err) (s : State) : (latch e s).bip = s.bip := rfl
@[simp] theorem latch_samp (e : Err) (s : State) : (latch e s).samp = s.samp := rfl
@[simp] theorem latch_svalid (e : Err) (s : State) : (latch e s).svalid = s.svalid := rfl
@[simp] theorem latch_acc (e : Err) (s : State) : (latch e s).acc = s.acc := rfl
@[simp] theorem latch_res (e : Err) (s : State) : (latch e s).res = s.res := rfl
@[simp] theorem latch_detlog (e : Err) (s : State) : (latch e s).detlog = s.detlog := rfl
@[simp] theorem latch_phase (e : Err) (s : State) : (latch e s).phase = .fault := rfl
@[simp] theorem latch_err (e : Err) (s : State) : (latch e s).err = if s.err = .none then e else s.err := rfl
@[simp] theorem latch_ctrS (e : Err) (s : State) : (latch e s).ctrS = s.ctrS := rfl
@[simp] theorem latch_ctrI (e : Err) (s : State) : (latch e s).ctrI = s.ctrI := rfl
@[simp] theorem latch_ctrD (e : Err) (s : State) : (latch e s).ctrD = s.ctrD := rfl
@[simp] theorem latch_ctrK (e : Err) (s : State) : (latch e s).ctrK = s.ctrK := rfl
@[simp] theorem latch_tap (e : Err) (s : State) : (latch e s).tap = s.tap := rfl
@[simp] theorem latch_mop (e : Err) (s : State) : (latch e s).mop = s.mop := rfl
@[simp] theorem latch_cmdIn (e : Err) (s : State) : (latch e s).cmdIn = s.cmdIn := rfl
@[simp] theorem latch_rstIn (e : Err) (s : State) : (latch e s).rstIn = s.rstIn := rfl
@[simp] theorem latch_rsp (e : Err) (s : State) : (latch e s).rsp = s.rsp := rfl
@[simp] theorem latch_det (e : Err) (s : State) : (latch e s).det = s.det := rfl

@[simp] theorem applyReset_top (s : State) : (applyReset s).top = State.reset.top := rfl
@[simp] theorem applyReset_bot (s : State) : (applyReset s).bot = State.reset.bot := rfl
@[simp] theorem applyReset_chip (s : State) : (applyReset s).chip = State.reset.chip := rfl
@[simp] theorem applyReset_bip (s : State) : (applyReset s).bip = State.reset.bip := rfl
@[simp] theorem applyReset_samp (s : State) : (applyReset s).samp = State.reset.samp := rfl
@[simp] theorem applyReset_svalid (s : State) : (applyReset s).svalid = State.reset.svalid := rfl
@[simp] theorem applyReset_acc (s : State) : (applyReset s).acc = State.reset.acc := rfl
@[simp] theorem applyReset_res (s : State) : (applyReset s).res = State.reset.res := rfl
@[simp] theorem applyReset_detlog (s : State) : (applyReset s).detlog = State.reset.detlog := rfl
@[simp] theorem applyReset_phase (s : State) : (applyReset s).phase = State.reset.phase := rfl
@[simp] theorem applyReset_err (s : State) : (applyReset s).err = State.reset.err := rfl
@[simp] theorem applyReset_ctrS (s : State) : (applyReset s).ctrS = State.reset.ctrS := rfl
@[simp] theorem applyReset_ctrI (s : State) : (applyReset s).ctrI = State.reset.ctrI := rfl
@[simp] theorem applyReset_ctrD (s : State) : (applyReset s).ctrD = State.reset.ctrD := rfl
@[simp] theorem applyReset_ctrK (s : State) : (applyReset s).ctrK = State.reset.ctrK := rfl
@[simp] theorem applyReset_tap (s : State) : (applyReset s).tap = s.tap := rfl
@[simp] theorem applyReset_mop (s : State) : (applyReset s).mop = State.reset.mop := rfl
@[simp] theorem applyReset_cmdIn (s : State) : (applyReset s).cmdIn = s.cmdIn := rfl
@[simp] theorem applyReset_rstIn (s : State) : (applyReset s).rstIn = s.rstIn := rfl
@[simp] theorem applyReset_rsp (s : State) : (applyReset s).rsp = s.rsp := rfl
@[simp] theorem applyReset_det (s : State) : (applyReset s).det = s.det := rfl

@[simp] theorem emitFound_top (k : Fin 24) (b : Bool) (d : BitVec 10) (s : State) : (emitFound k b d s).top = s.top := rfl
@[simp] theorem emitFound_bot (k : Fin 24) (b : Bool) (d : BitVec 10) (s : State) : (emitFound k b d s).bot = s.bot := rfl
@[simp] theorem emitFound_chip (k : Fin 24) (b : Bool) (d : BitVec 10) (s : State) : (emitFound k b d s).chip = s.chip := rfl
@[simp] theorem emitFound_bip (k : Fin 24) (b : Bool) (d : BitVec 10) (s : State) : (emitFound k b d s).bip = s.bip := rfl
@[simp] theorem emitFound_samp (k : Fin 24) (b : Bool) (d : BitVec 10) (s : State) : (emitFound k b d s).samp = s.samp := rfl
@[simp] theorem emitFound_svalid (k : Fin 24) (b : Bool) (d : BitVec 10) (s : State) : (emitFound k b d s).svalid = s.svalid := rfl
@[simp] theorem emitFound_acc (k : Fin 24) (b : Bool) (d : BitVec 10) (s : State) : (emitFound k b d s).acc = s.acc := rfl
@[simp] theorem emitFound_res (k : Fin 24) (b : Bool) (d : BitVec 10) (s : State) : (emitFound k b d s).res = s.res.set k ⟨.found, b, d⟩ := rfl
@[simp] theorem emitFound_detlog (k : Fin 24) (b : Bool) (d : BitVec 10) (s : State) : (emitFound k b d s).detlog = s.detlog ++ [⟨satId k, b, d⟩] := rfl
@[simp] theorem emitFound_phase (k : Fin 24) (b : Bool) (d : BitVec 10) (s : State) : (emitFound k b d s).phase = s.phase := rfl
@[simp] theorem emitFound_err (k : Fin 24) (b : Bool) (d : BitVec 10) (s : State) : (emitFound k b d s).err = s.err := rfl
@[simp] theorem emitFound_ctrS (k : Fin 24) (b : Bool) (d : BitVec 10) (s : State) : (emitFound k b d s).ctrS = s.ctrS := rfl
@[simp] theorem emitFound_ctrI (k : Fin 24) (b : Bool) (d : BitVec 10) (s : State) : (emitFound k b d s).ctrI = s.ctrI := rfl
@[simp] theorem emitFound_ctrD (k : Fin 24) (b : Bool) (d : BitVec 10) (s : State) : (emitFound k b d s).ctrD = s.ctrD := rfl
@[simp] theorem emitFound_ctrK (k : Fin 24) (b : Bool) (d : BitVec 10) (s : State) : (emitFound k b d s).ctrK = s.ctrK := rfl
@[simp] theorem emitFound_tap (k : Fin 24) (b : Bool) (d : BitVec 10) (s : State) : (emitFound k b d s).tap = s.tap := rfl
@[simp] theorem emitFound_mop (k : Fin 24) (b : Bool) (d : BitVec 10) (s : State) : (emitFound k b d s).mop = s.mop := rfl
@[simp] theorem emitFound_cmdIn (k : Fin 24) (b : Bool) (d : BitVec 10) (s : State) : (emitFound k b d s).cmdIn = s.cmdIn := rfl
@[simp] theorem emitFound_rstIn (k : Fin 24) (b : Bool) (d : BitVec 10) (s : State) : (emitFound k b d s).rstIn = s.rstIn := rfl
@[simp] theorem emitFound_rsp (k : Fin 24) (b : Bool) (d : BitVec 10) (s : State) : (emitFound k b d s).rsp = s.rsp := rfl
@[simp] theorem emitFound_det (k : Fin 24) (b : Bool) (d : BitVec 10) (s : State) : (emitFound k b d s).det = s.det ++ [recordWord ⟨.found, b, d⟩ (satId k)] := rfl

@[simp] theorem markNosync_top (k : Fin 24) (s : State) : (markNosync k s).top = s.top := rfl
@[simp] theorem markNosync_bot (k : Fin 24) (s : State) : (markNosync k s).bot = s.bot := rfl
@[simp] theorem markNosync_chip (k : Fin 24) (s : State) : (markNosync k s).chip = s.chip := rfl
@[simp] theorem markNosync_bip (k : Fin 24) (s : State) : (markNosync k s).bip = s.bip := rfl
@[simp] theorem markNosync_samp (k : Fin 24) (s : State) : (markNosync k s).samp = s.samp := rfl
@[simp] theorem markNosync_svalid (k : Fin 24) (s : State) : (markNosync k s).svalid = s.svalid := rfl
@[simp] theorem markNosync_acc (k : Fin 24) (s : State) : (markNosync k s).acc = s.acc := rfl
@[simp] theorem markNosync_res (k : Fin 24) (s : State) : (markNosync k s).res = s.res.set k Result.nosync := rfl
@[simp] theorem markNosync_detlog (k : Fin 24) (s : State) : (markNosync k s).detlog = s.detlog := rfl
@[simp] theorem markNosync_phase (k : Fin 24) (s : State) : (markNosync k s).phase = s.phase := rfl
@[simp] theorem markNosync_err (k : Fin 24) (s : State) : (markNosync k s).err = s.err := rfl
@[simp] theorem markNosync_ctrS (k : Fin 24) (s : State) : (markNosync k s).ctrS = s.ctrS := rfl
@[simp] theorem markNosync_ctrI (k : Fin 24) (s : State) : (markNosync k s).ctrI = s.ctrI := rfl
@[simp] theorem markNosync_ctrD (k : Fin 24) (s : State) : (markNosync k s).ctrD = s.ctrD := rfl
@[simp] theorem markNosync_ctrK (k : Fin 24) (s : State) : (markNosync k s).ctrK = s.ctrK := rfl
@[simp] theorem markNosync_tap (k : Fin 24) (s : State) : (markNosync k s).tap = s.tap := rfl
@[simp] theorem markNosync_mop (k : Fin 24) (s : State) : (markNosync k s).mop = s.mop := rfl
@[simp] theorem markNosync_cmdIn (k : Fin 24) (s : State) : (markNosync k s).cmdIn = s.cmdIn := rfl
@[simp] theorem markNosync_rstIn (k : Fin 24) (s : State) : (markNosync k s).rstIn = s.rstIn := rfl
@[simp] theorem markNosync_rsp (k : Fin 24) (s : State) : (markNosync k s).rsp = s.rsp := rfl
@[simp] theorem markNosync_det (k : Fin 24) (s : State) : (markNosync k s).det = s.det := rfl

@[simp] theorem cDot_top (k : Fin 24) (s : State) : (cDot k s).top = s.top := rfl
@[simp] theorem cDot_bot (k : Fin 24) (s : State) : (cDot k s).bot = s.bot := rfl
@[simp] theorem cDot_chip (k : Fin 24) (s : State) : (cDot k s).chip = s.chip := rfl
@[simp] theorem cDot_bip (k : Fin 24) (s : State) : (cDot k s).bip = s.bip := rfl
@[simp] theorem cDot_samp (k : Fin 24) (s : State) : (cDot k s).samp = s.samp := rfl
@[simp] theorem cDot_svalid (k : Fin 24) (s : State) : (cDot k s).svalid = s.svalid := rfl
@[simp] theorem cDot_acc (k : Fin 24) (s : State) : (cDot k s).acc = (dot s.samp.cells (s.bip.get k).cells).map (BitVec.ofInt 16) := rfl
@[simp] theorem cDot_res (k : Fin 24) (s : State) : (cDot k s).res = s.res := rfl
@[simp] theorem cDot_detlog (k : Fin 24) (s : State) : (cDot k s).detlog = s.detlog := rfl
@[simp] theorem cDot_phase (k : Fin 24) (s : State) : (cDot k s).phase = s.phase := rfl
@[simp] theorem cDot_err (k : Fin 24) (s : State) : (cDot k s).err = s.err := rfl
@[simp] theorem cDot_ctrS (k : Fin 24) (s : State) : (cDot k s).ctrS = s.ctrS := rfl
@[simp] theorem cDot_ctrI (k : Fin 24) (s : State) : (cDot k s).ctrI = s.ctrI := rfl
@[simp] theorem cDot_ctrD (k : Fin 24) (s : State) : (cDot k s).ctrD = s.ctrD := rfl
@[simp] theorem cDot_ctrK (k : Fin 24) (s : State) : (cDot k s).ctrK = s.ctrK := rfl
@[simp] theorem cDot_tap (k : Fin 24) (s : State) : (cDot k s).tap = s.tap := rfl
@[simp] theorem cDot_mop (k : Fin 24) (s : State) : (cDot k s).mop = s.mop := rfl
@[simp] theorem cDot_cmdIn (k : Fin 24) (s : State) : (cDot k s).cmdIn = s.cmdIn := rfl
@[simp] theorem cDot_rstIn (k : Fin 24) (s : State) : (cDot k s).rstIn = s.rstIn := rfl
@[simp] theorem cDot_rsp (k : Fin 24) (s : State) : (cDot k s).rsp = s.rsp := rfl
@[simp] theorem cDot_det (k : Fin 24) (s : State) : (cDot k s).det = s.det := rfl

@[simp] theorem cRot_top (k : Fin 24) (s : State) : (cRot k s).top = s.top := rfl
@[simp] theorem cRot_bot (k : Fin 24) (s : State) : (cRot k s).bot = s.bot := rfl
@[simp] theorem cRot_chip (k : Fin 24) (s : State) : (cRot k s).chip = s.chip := rfl
@[simp] theorem cRot_bip (k : Fin 24) (s : State) : (cRot k s).bip = s.bip.set k (rotrTab (s.bip.get k)) := rfl
@[simp] theorem cRot_samp (k : Fin 24) (s : State) : (cRot k s).samp = s.samp := rfl
@[simp] theorem cRot_svalid (k : Fin 24) (s : State) : (cRot k s).svalid = s.svalid := rfl
@[simp] theorem cRot_acc (k : Fin 24) (s : State) : (cRot k s).acc = s.acc := rfl
@[simp] theorem cRot_res (k : Fin 24) (s : State) : (cRot k s).res = s.res := rfl
@[simp] theorem cRot_detlog (k : Fin 24) (s : State) : (cRot k s).detlog = s.detlog := rfl
@[simp] theorem cRot_phase (k : Fin 24) (s : State) : (cRot k s).phase = s.phase := rfl
@[simp] theorem cRot_err (k : Fin 24) (s : State) : (cRot k s).err = s.err := rfl
@[simp] theorem cRot_ctrS (k : Fin 24) (s : State) : (cRot k s).ctrS = s.ctrS := rfl
@[simp] theorem cRot_ctrI (k : Fin 24) (s : State) : (cRot k s).ctrI = s.ctrI := rfl
@[simp] theorem cRot_ctrD (k : Fin 24) (s : State) : (cRot k s).ctrD = s.ctrD := rfl
@[simp] theorem cRot_ctrK (k : Fin 24) (s : State) : (cRot k s).ctrK = s.ctrK := rfl
@[simp] theorem cRot_tap (k : Fin 24) (s : State) : (cRot k s).tap = s.tap := rfl
@[simp] theorem cRot_mop (k : Fin 24) (s : State) : (cRot k s).mop = s.mop := rfl
@[simp] theorem cRot_cmdIn (k : Fin 24) (s : State) : (cRot k s).cmdIn = s.cmdIn := rfl
@[simp] theorem cRot_rstIn (k : Fin 24) (s : State) : (cRot k s).rstIn = s.rstIn := rfl
@[simp] theorem cRot_rsp (k : Fin 24) (s : State) : (cRot k s).rsp = s.rsp := rfl
@[simp] theorem cRot_det (k : Fin 24) (s : State) : (cRot k s).det = s.det := rfl

@[simp] theorem clearResults_top (s : State) : (clearResults s).top = s.top := rfl
@[simp] theorem clearResults_bot (s : State) : (clearResults s).bot = s.bot := rfl
@[simp] theorem clearResults_chip (s : State) : (clearResults s).chip = s.chip := rfl
@[simp] theorem clearResults_bip (s : State) : (clearResults s).bip = s.bip := rfl
@[simp] theorem clearResults_samp (s : State) : (clearResults s).samp = s.samp := rfl
@[simp] theorem clearResults_svalid (s : State) : (clearResults s).svalid = s.svalid := rfl
@[simp] theorem clearResults_acc (s : State) : (clearResults s).acc = s.acc := rfl
@[simp] theorem clearResults_res (s : State) : (clearResults s).res = Tab.const 24 Result.none := rfl
@[simp] theorem clearResults_detlog (s : State) : (clearResults s).detlog = s.detlog := rfl
@[simp] theorem clearResults_phase (s : State) : (clearResults s).phase = s.phase := rfl
@[simp] theorem clearResults_err (s : State) : (clearResults s).err = s.err := rfl
@[simp] theorem clearResults_ctrS (s : State) : (clearResults s).ctrS = s.ctrS := rfl
@[simp] theorem clearResults_ctrI (s : State) : (clearResults s).ctrI = s.ctrI := rfl
@[simp] theorem clearResults_ctrD (s : State) : (clearResults s).ctrD = s.ctrD := rfl
@[simp] theorem clearResults_ctrK (s : State) : (clearResults s).ctrK = s.ctrK := rfl
@[simp] theorem clearResults_tap (s : State) : (clearResults s).tap = s.tap := rfl
@[simp] theorem clearResults_mop (s : State) : (clearResults s).mop = s.mop := rfl
@[simp] theorem clearResults_cmdIn (s : State) : (clearResults s).cmdIn = s.cmdIn := rfl
@[simp] theorem clearResults_rstIn (s : State) : (clearResults s).rstIn = s.rstIn := rfl
@[simp] theorem clearResults_rsp (s : State) : (clearResults s).rsp = s.rsp := rfl
@[simp] theorem clearResults_det (s : State) : (clearResults s).det = s.det := rfl

@[simp] theorem writeSample_top (i : Fin 1023) (v : BitVec 5) (s : State) : (writeSample i v s).top = s.top := rfl
@[simp] theorem writeSample_bot (i : Fin 1023) (v : BitVec 5) (s : State) : (writeSample i v s).bot = s.bot := rfl
@[simp] theorem writeSample_chip (i : Fin 1023) (v : BitVec 5) (s : State) : (writeSample i v s).chip = s.chip := rfl
@[simp] theorem writeSample_bip (i : Fin 1023) (v : BitVec 5) (s : State) : (writeSample i v s).bip = s.bip := rfl
@[simp] theorem writeSample_samp (i : Fin 1023) (v : BitVec 5) (s : State) : (writeSample i v s).samp = s.samp.set i (some v) := rfl
@[simp] theorem writeSample_svalid (i : Fin 1023) (v : BitVec 5) (s : State) : (writeSample i v s).svalid = s.svalid.set i true := rfl
@[simp] theorem writeSample_acc (i : Fin 1023) (v : BitVec 5) (s : State) : (writeSample i v s).acc = s.acc := rfl
@[simp] theorem writeSample_res (i : Fin 1023) (v : BitVec 5) (s : State) : (writeSample i v s).res = s.res := rfl
@[simp] theorem writeSample_detlog (i : Fin 1023) (v : BitVec 5) (s : State) : (writeSample i v s).detlog = s.detlog := rfl
@[simp] theorem writeSample_phase (i : Fin 1023) (v : BitVec 5) (s : State) : (writeSample i v s).phase = s.phase := rfl
@[simp] theorem writeSample_err (i : Fin 1023) (v : BitVec 5) (s : State) : (writeSample i v s).err = s.err := rfl
@[simp] theorem writeSample_ctrS (i : Fin 1023) (v : BitVec 5) (s : State) : (writeSample i v s).ctrS = s.ctrS := rfl
@[simp] theorem writeSample_ctrI (i : Fin 1023) (v : BitVec 5) (s : State) : (writeSample i v s).ctrI = s.ctrI := rfl
@[simp] theorem writeSample_ctrD (i : Fin 1023) (v : BitVec 5) (s : State) : (writeSample i v s).ctrD = s.ctrD := rfl
@[simp] theorem writeSample_ctrK (i : Fin 1023) (v : BitVec 5) (s : State) : (writeSample i v s).ctrK = s.ctrK := rfl
@[simp] theorem writeSample_tap (i : Fin 1023) (v : BitVec 5) (s : State) : (writeSample i v s).tap = s.tap := rfl
@[simp] theorem writeSample_mop (i : Fin 1023) (v : BitVec 5) (s : State) : (writeSample i v s).mop = s.mop := rfl
@[simp] theorem writeSample_cmdIn (i : Fin 1023) (v : BitVec 5) (s : State) : (writeSample i v s).cmdIn = s.cmdIn := rfl
@[simp] theorem writeSample_rstIn (i : Fin 1023) (v : BitVec 5) (s : State) : (writeSample i v s).rstIn = s.rstIn := rfl
@[simp] theorem writeSample_rsp (i : Fin 1023) (v : BitVec 5) (s : State) : (writeSample i v s).rsp = s.rsp := rfl
@[simp] theorem writeSample_det (i : Fin 1023) (v : BitVec 5) (s : State) : (writeSample i v s).det = s.det := rfl

@[simp] theorem genDone_top (s : State) : (genDone s).top = some (regAfter topNext (24 * 1023) allOnes) := rfl
@[simp] theorem genDone_bot (s : State) : (genDone s).bot = some (regAfter botNext (24 * 1023) allOnes) := rfl
@[simp] theorem genDone_chip (s : State) : (genDone s).chip = genChip s.tap := rfl
@[simp] theorem genDone_bip (s : State) : (genDone s).bip = genBip (genChip s.tap) := rfl
@[simp] theorem genDone_samp (s : State) : (genDone s).samp = s.samp := rfl
@[simp] theorem genDone_svalid (s : State) : (genDone s).svalid = s.svalid := rfl
@[simp] theorem genDone_acc (s : State) : (genDone s).acc = s.acc := rfl
@[simp] theorem genDone_res (s : State) : (genDone s).res = s.res := rfl
@[simp] theorem genDone_detlog (s : State) : (genDone s).detlog = s.detlog := rfl
@[simp] theorem genDone_phase (s : State) : (genDone s).phase = .ready := rfl
@[simp] theorem genDone_err (s : State) : (genDone s).err = s.err := rfl
@[simp] theorem genDone_ctrS (s : State) : (genDone s).ctrS = none := rfl
@[simp] theorem genDone_ctrI (s : State) : (genDone s).ctrI = none := rfl
@[simp] theorem genDone_ctrD (s : State) : (genDone s).ctrD = s.ctrD := rfl
@[simp] theorem genDone_ctrK (s : State) : (genDone s).ctrK = s.ctrK := rfl
@[simp] theorem genDone_tap (s : State) : (genDone s).tap = s.tap := rfl
@[simp] theorem genDone_mop (s : State) : (genDone s).mop = none := rfl
@[simp] theorem genDone_cmdIn (s : State) : (genDone s).cmdIn = s.cmdIn := rfl
@[simp] theorem genDone_rstIn (s : State) : (genDone s).rstIn = s.rstIn := rfl
@[simp] theorem genDone_rsp (s : State) : (genDone s).rsp = s.rsp := rfl
@[simp] theorem genDone_det (s : State) : (genDone s).det = s.det := rfl

@[simp] theorem genStart_top (s : State) : (genStart s).top = s.top := rfl
@[simp] theorem genStart_bot (s : State) : (genStart s).bot = s.bot := rfl
@[simp] theorem genStart_chip (s : State) : (genStart s).chip = s.chip := rfl
@[simp] theorem genStart_bip (s : State) : (genStart s).bip = s.bip := rfl
@[simp] theorem genStart_samp (s : State) : (genStart s).samp = s.samp := rfl
@[simp] theorem genStart_svalid (s : State) : (genStart s).svalid = s.svalid := rfl
@[simp] theorem genStart_acc (s : State) : (genStart s).acc = s.acc := rfl
@[simp] theorem genStart_res (s : State) : (genStart s).res = s.res := rfl
@[simp] theorem genStart_detlog (s : State) : (genStart s).detlog = s.detlog := rfl
@[simp] theorem genStart_phase (s : State) : (genStart s).phase = .genRun := rfl
@[simp] theorem genStart_err (s : State) : (genStart s).err = s.err := rfl
@[simp] theorem genStart_ctrS (s : State) : (genStart s).ctrS = s.ctrS := rfl
@[simp] theorem genStart_ctrI (s : State) : (genStart s).ctrI = s.ctrI := rfl
@[simp] theorem genStart_ctrD (s : State) : (genStart s).ctrD = s.ctrD := rfl
@[simp] theorem genStart_ctrK (s : State) : (genStart s).ctrK = s.ctrK := rfl
@[simp] theorem genStart_tap (s : State) : (genStart s).tap = s.tap := rfl
@[simp] theorem genStart_mop (s : State) : (genStart s).mop = some .gInit := rfl
@[simp] theorem genStart_cmdIn (s : State) : (genStart s).cmdIn = s.cmdIn := rfl
@[simp] theorem genStart_rstIn (s : State) : (genStart s).rstIn = s.rstIn := rfl
@[simp] theorem genStart_rsp (s : State) : (genStart s).rsp = s.rsp := rfl
@[simp] theorem genStart_det (s : State) : (genStart s).det = s.det := rfl

@[simp] theorem acqStart_top (s : State) : (acqStart s).top = s.top := rfl
@[simp] theorem acqStart_bot (s : State) : (acqStart s).bot = s.bot := rfl
@[simp] theorem acqStart_chip (s : State) : (acqStart s).chip = s.chip := rfl
@[simp] theorem acqStart_bip (s : State) : (acqStart s).bip = s.bip := rfl
@[simp] theorem acqStart_samp (s : State) : (acqStart s).samp = s.samp := rfl
@[simp] theorem acqStart_svalid (s : State) : (acqStart s).svalid = s.svalid := rfl
@[simp] theorem acqStart_acc (s : State) : (acqStart s).acc = s.acc := rfl
@[simp] theorem acqStart_res (s : State) : (acqStart s).res = Tab.const 24 Result.none := rfl
@[simp] theorem acqStart_detlog (s : State) : (acqStart s).detlog = s.detlog := rfl
@[simp] theorem acqStart_phase (s : State) : (acqStart s).phase = .acqRun := rfl
@[simp] theorem acqStart_err (s : State) : (acqStart s).err = s.err := rfl
@[simp] theorem acqStart_ctrS (s : State) : (acqStart s).ctrS = some 0 := rfl
@[simp] theorem acqStart_ctrI (s : State) : (acqStart s).ctrI = s.ctrI := rfl
@[simp] theorem acqStart_ctrD (s : State) : (acqStart s).ctrD = some 0 := rfl
@[simp] theorem acqStart_ctrK (s : State) : (acqStart s).ctrK = s.ctrK := rfl
@[simp] theorem acqStart_tap (s : State) : (acqStart s).tap = s.tap := rfl
@[simp] theorem acqStart_mop (s : State) : (acqStart s).mop = some .cClr := rfl
@[simp] theorem acqStart_cmdIn (s : State) : (acqStart s).cmdIn = s.cmdIn := rfl
@[simp] theorem acqStart_rstIn (s : State) : (acqStart s).rstIn = s.rstIn := rfl
@[simp] theorem acqStart_rsp (s : State) : (acqStart s).rsp = s.rsp := rfl
@[simp] theorem acqStart_det (s : State) : (acqStart s).det = s.det := rfl

end Sys2Proof.Machine
end

