-- ==== Sys2Proof/Laws/Ops.lean ====
section
/-! SUPPORT. What each shared operation does: array access, and one lemma per check of the common procedure. -/

namespace Sys2Proof

/-! ### Arrays -/

theorem Tab.ext_get {α : Type} {n : Nat} {t u : Tab α n} (h : ∀ i : Fin n, t.get i = u.get i) : t = u := by
  cases t with
  | mk a ha =>
    cases u with
    | mk b hb =>
      have hab : a = b := List.ext_getElem (ha.trans hb.symm) fun i h1 _ => h ⟨i, ha ▸ h1⟩
      subst hab
      rfl

@[simp] theorem Tab.get_const {α : Type} {n : Nat} (a : α) (i : Fin n) : (Tab.const n a).get i = a := by
  simp [Tab.get, Tab.const]

@[simp] theorem Tab.get_map {α β : Type} {n : Nat} (f : α → β) (t : Tab α n) (i : Fin n) :
    (t.map f).get i = f (t.get i) := by
  simp [Tab.get, Tab.map]

@[simp] theorem Tab.get_set_self {α : Type} {n : Nat} (t : Tab α n) (i : Fin n) (a : α) : (t.set i a).get i = a := by
  simp [Tab.get, Tab.set]

theorem Tab.get_set_ne {α : Type} {n : Nat} (t : Tab α n) {i j : Fin n} (a : α) (h : i ≠ j) :
    (t.set i a).get j = t.get j := by
  have hij : i.val ≠ j.val := fun e => h (Fin.ext e)
  simp [Tab.get, Tab.set, List.getElem_set_ne hij]

theorem Tab.get_set {α : Type} {n : Nat} (t : Tab α n) (i j : Fin n) (a : α) :
    (t.set i a).get j = if i = j then a else t.get j := by
  by_cases h : i = j
  · subst h
    simp
  · simp [h, Tab.get_set_ne t a h]

theorem Tab.forall_cells {α : Type} {n : Nat} (t : Tab α n) (P : α → Prop) :
    (∀ x ∈ t.cells, P x) ↔ ∀ i : Fin n, P (t.get i) := by
  constructor
  · intro h i
    exact h _ (List.getElem_mem _)
  · intro h x hx
    obtain ⟨i, hi, rfl⟩ := List.getElem_of_mem hx
    exact h ⟨i, t.size_eq ▸ hi⟩

namespace Machine

@[simp] theorem read2_const {α : Type} (a : α) (k : Fin 24) (i : Fin 1023) :
    read2 (Tab.const 24 (Tab.const 1023 a)) k i = a := by
  simp [read2]

theorem read2_write2 {α : Type} (a : Tab (Tab α 1023) 24) (k l : Fin 24) (i j : Fin 1023) (v : α) :
    read2 (write2 a k i v) l j = if k = l ∧ i = j then v else read2 a l j := by
  by_cases hk : k = l
  · subst hk
    simp [read2, write2, Tab.get_set]
  · simp [read2, write2, Tab.get_set, hk]

theorem ext_read2 {α : Type} {a b : Tab (Tab α 1023) 24} (h : ∀ k i, read2 a k i = read2 b k i) : a = b :=
  Tab.ext_get fun k => Tab.ext_get fun i => h k i

/-- `SFULL` says every sample is marked written. -/
theorem sfull_iff (s : State) : sfull s = true ↔ ∀ i : Fin 1023, s.svalid.get i = true := by
  rw [sfull, List.all_eq_true]
  exact Tab.forall_cells s.svalid (fun v => v = true)

/-- A row is present where each of its elements holds a value. -/
theorem rowPresent_iff {α : Type} {n : Nat} (t : Tab (Option α) n) :
    rowPresent t = true ↔ ∀ i : Fin n, (t.get i).isSome = true := by
  rw [rowPresent, List.all_eq_true]
  exact Tab.forall_cells t (fun v => v.isSome = true)

/-- `ACQ` finds every value it reads. -/
theorem acqReadable_iff (s : State) :
    acqReadable s = true ↔
      (∀ i : Fin 1023, (s.samp.get i).isSome = true) ∧ ∀ k i, (read2 s.bip k i).isSome = true := by
  rw [acqReadable, Bool.and_eq_true, rowPresent_iff, List.all_eq_true,
    Tab.forall_cells s.bip (fun r => rowPresent r = true)]
  simp only [rowPresent_iff, read2]

/-! ### Outcomes of the checks -/

theorem answer_next {w : Word} {s t : State} (h : answer w s = .next t) : t = respond w s := by
  cases h
  rfl

theorem raise_next {e : Err} {s t : State} (h : raise e s = .next t) : t = respond (errWord e) (latch e s) := by
  cases h
  rfl

theorem refuseFaulted_next {s t : State} (h : refuseFaulted s = .next t) : t = respond (errWord .faulted) s := by
  cases h
  rfl

/-- The common procedure up to the phase check, on a next state: refused in FAULT, `E_SEQ`, or the rest of the command. -/
theorem inPhase_next {legal : Phase → Bool} {s t : State} {k : Out} (h : inPhase legal s k = .next t) :
    busy s.phase = false ∧
      ((s.phase = .fault ∧ t = respond (errWord .faulted) s) ∨
        (s.phase ≠ .fault ∧ legal s.phase = false ∧ t = respond (errWord .seq) (latch .seq s)) ∨
        (s.phase ≠ .fault ∧ legal s.phase = true ∧ k = .next t)) := by
  unfold inPhase at h
  split at h
  · cases h
  · rename_i hb
    refine ⟨by simpa using hb, ?_⟩
    split at h
    · exact .inl ⟨‹_›, refuseFaulted_next h⟩
    · split at h
      · exact .inr (.inr ⟨‹_›, ‹_›, h⟩)
      · exact .inr (.inl ⟨‹_›, Bool.eq_false_iff.mpr ‹_›, raise_next h⟩)

/-- A phase in which a command is legal runs the rest of it. -/
theorem inPhase_legal {legal : Phase → Bool} {s : State} (k : Out) (hb : busy s.phase = false) (hf : s.phase ≠ .fault)
    (hl : legal s.phase = true) : inPhase legal s k = k := by
  simp [inPhase, hb, hf, hl]

theorem inPhase_fault {legal : Phase → Bool} {s : State} (k : Out) (hf : s.phase = .fault) :
    inPhase legal s k = refuseFaulted s := by
  simp [inPhase, hf, busy]

theorem inPhase_illegal {legal : Phase → Bool} {s : State} (k : Out) (hb : busy s.phase = false) (hf : s.phase ≠ .fault)
    (hl : legal s.phase = false) : inPhase legal s k = raise .seq s := by
  simp [inPhase, hb, hf, hl]

theorem inAnyPhase_next {s t : State} {k : Out} (h : inAnyPhase s k = .next t) :
    busy s.phase = false ∧ k = .next t := by
  unfold inAnyPhase at h
  split at h
  · cases h
  · exact ⟨Bool.eq_false_iff.mpr ‹_›, h⟩

theorem inAnyPhase_rest {s : State} (k : Out) (hb : busy s.phase = false) : inAnyPhase s k = k := by
  simp [inAnyPhase, hb]

theorem withSat_next {n : Nat} {s t : State} {k : Fin 24 → Out} (h : withSat n s k = .next t) :
    (¬n < 24 ∧ t = respond (errWord .index) (latch .index s)) ∨ ∃ hn : n < 24, k ⟨n, hn⟩ = .next t := by
  unfold withSat at h
  split at h
  · exact .inr ⟨‹_›, h⟩
  · exact .inl ⟨‹_›, raise_next h⟩

theorem withSat_lt {n : Nat} (hn : n < 24) (s : State) (k : Fin 24 → Out) : withSat n s k = k ⟨n, hn⟩ := by
  simp [withSat, hn]

theorem withIndex_next {n : Nat} {s t : State} {k : Fin 1023 → Out} (h : withIndex n s k = .next t) :
    (¬n < 1023 ∧ t = respond (errWord .index) (latch .index s)) ∨ ∃ hn : n < 1023, k ⟨n, hn⟩ = .next t := by
  unfold withIndex at h
  split at h
  · exact .inr ⟨‹_›, h⟩
  · exact .inl ⟨‹_›, raise_next h⟩

theorem withIndex_lt {n : Nat} (hn : n < 1023) (s : State) (k : Fin 1023 → Out) : withIndex n s k = k ⟨n, hn⟩ := by
  simp [withIndex, hn]

theorem withSample_next {v : Int} {s t : State} {k : BitVec 5 → Out} (h : withSample v s k = .next t) :
    (¬(-9 ≤ v ∧ v ≤ 9) ∧ t = respond (errWord .range) (latch .range s)) ∨
      ((-9 ≤ v ∧ v ≤ 9) ∧ k (BitVec.ofInt 5 v) = .next t) := by
  unfold withSample at h
  split at h
  · exact .inr ⟨‹_›, h⟩
  · exact .inl ⟨‹_›, raise_next h⟩

theorem withSample_range {v : Int} (h1 : -9 ≤ v) (h2 : v ≤ 9) (s : State) (k : BitVec 5 → Out) :
    withSample v s k = k (BitVec.ofInt 5 v) := if_pos ⟨h1, h2⟩

theorem withValue_next {α : Type} {v : Option α} {t : State} {k : α → Out} (h : withValue v k = .next t) :
    ∃ a, v = some a ∧ k a = .next t := by
  cases v with
  | none => cases h
  | some a => exact ⟨a, rfl, h⟩

@[simp] theorem withValue_some {α : Type} (a : α) (k : α → Out) : withValue (some a) k = k a := rfl

theorem needSample_next {i : Fin 1023} {s t : State} {k : Out} (h : needSample i s k = .next t) :
    (s.svalid.get i = false ∧ t = respond (errWord .uninit) (latch .uninit s)) ∨
      (s.svalid.get i = true ∧ k = .next t) := by
  unfold needSample at h
  split at h
  · exact .inr ⟨‹_›, h⟩
  · exact .inl ⟨Bool.eq_false_iff.mpr ‹_›, raise_next h⟩

theorem needSamples_next {s t : State} {k : Out} (h : needSamples s k = .next t) :
    (sfull s = false ∧ t = respond (errWord .uninit) (latch .uninit s)) ∨ (sfull s = true ∧ k = .next t) := by
  unfold needSamples at h
  split at h
  · exact .inr ⟨‹_›, h⟩
  · exact .inl ⟨Bool.eq_false_iff.mpr ‹_›, raise_next h⟩

theorem needTables_next {s t : State} {k : Out} (h : needTables s k = .next t) : acqReadable s = true ∧ k = .next t := by
  unfold needTables at h
  split at h
  · exact ⟨‹_›, h⟩
  · cases h

/-- The sample a legal value is stored as reads back as that value (00_scope R13). -/
theorem sampleInt_ofInt {v : Int} (h1 : -9 ≤ v) (h2 : v ≤ 9) : sampleInt (BitVec.ofInt 5 v) = v := by
  have : v = -9 ∨ v = -8 ∨ v = -7 ∨ v = -6 ∨ v = -5 ∨ v = -4 ∨ v = -3 ∨ v = -2 ∨ v = -1 ∨ v = 0 ∨ v = 1 ∨ v = 2 ∨
      v = 3 ∨ v = 4 ∨ v = 5 ∨ v = 6 ∨ v = 7 ∨ v = 8 ∨ v = 9 := by omega
  rcases this with h | h | h | h | h | h | h | h | h | h | h | h | h | h | h | h | h | h | h <;> subst h <;> decide

end Machine

end Sys2Proof
end

