-- ==== Sys2Proof/Laws/Correlator.lean ====
section
/-! SUPPORT. Rotation element by element, what a search leaves unchanged, and the satellite loop. -/

namespace Sys2Proof.Machine

open Sys2Proof

/-- `rotr(V)[0] = V[1022]` and `rotr(V)[k] = V[k-1]` (00_scope R18). -/
theorem rotrTab_get {α : Type} (t : Tab α 1023) (i : Fin 1023) :
    (rotrTab t).get i = if _h : i.val = 0 then t.get ⟨1022, by omega⟩ else t.get ⟨i.val - 1, by omega⟩ := by
  have hl := t.size_eq
  simp only [Tab.get, rotrTab, rotr]
  split
  · rename_i h
    rw [List.getElem_append_left (by rw [List.length_drop, hl]; omega), List.getElem_drop]
    congr 1
    omega
  · rename_i h
    rw [List.getElem_append_right (by rw [List.length_drop, hl]; omega), List.getElem_take]
    congr 1
    rw [List.length_drop, hl]

/-- A relation kept by the rotation, the product, the detection and the NOSYNC mark of satellite `k` is kept by its
search. -/
theorem search_keeps (k : Fin 24) (R : State → State → Prop)
    (trans : ∀ a b c, R a b → R b c → R a c) (hd : ∀ s, R s (cDot k s)) (hr : ∀ s, R s (cRot k s))
    (he : ∀ b d s, R s (emitFound k b d s)) (hn : ∀ s, R s (markNosync k s)) (fuel d : Nat) (s : State) :
    R s (search k fuel d s) := by
  induction fuel generalizing d s with
  | zero => exact hn s
  | succ fuel ih =>
    simp only [search]
    split
    · exact trans _ _ _ (hd s) (he _ _ _)
    · exact trans _ _ _ (trans _ _ _ (hd s) (hr _)) (ih (d + 1) (cRot k (cDot k s)))

theorem searchAll_cons (k : Fin 24) (ks : List (Fin 24)) (s : State) :
    searchAll (k :: ks) s = searchAll ks (searchSat k s) := List.foldl_cons ..

/-- Whatever each satellite's search keeps, the satellite loop keeps. -/
theorem searchAll_keeps (R : State → State → Prop) (refl : ∀ s, R s s) (trans : ∀ a b c, R a b → R b c → R a c)
    (h : ∀ k s, R s (searchSat k s)) (ks : List (Fin 24)) (s : State) : R s (searchAll ks s) := by
  induction ks generalizing s with
  | nil => exact refl s
  | cons k ks ih => exact trans _ _ _ (h k s) (ih (searchSat k s))

/-- The state a search leaves alone: everything but `BIP`, `ACC`, `RES`, `DETLOG` and the detection port
(41_correlator R160). -/
def SameOutsideSearch (s t : State) : Prop :=
  t.top = s.top ∧ t.bot = s.bot ∧ t.chip = s.chip ∧ t.samp = s.samp ∧ t.svalid = s.svalid ∧ t.phase = s.phase ∧
    t.err = s.err ∧ t.ctrS = s.ctrS ∧ t.ctrI = s.ctrI ∧ t.ctrD = s.ctrD ∧ t.ctrK = s.ctrK ∧ t.tap = s.tap ∧
    t.mop = s.mop ∧ t.cmdIn = s.cmdIn ∧ t.rstIn = s.rstIn ∧ t.rsp = s.rsp

theorem searchAll_same (ks : List (Fin 24)) (s : State) : SameOutsideSearch s (searchAll ks s) := by
  have refl : ∀ s, SameOutsideSearch s s := fun s => by simp [SameOutsideSearch]
  have trans : ∀ a b c, SameOutsideSearch a b → SameOutsideSearch b c → SameOutsideSearch a c := by
    intro a b c hab hbc
    simp only [SameOutsideSearch] at *
    simp [hab, hbc]
  exact searchAll_keeps _ refl trans (fun k s => search_keeps k _ trans (fun _ => by simp [SameOutsideSearch])
    (fun _ => by simp [SameOutsideSearch]) (fun _ _ _ => by simp [SameOutsideSearch])
    (fun _ => by simp [SameOutsideSearch]) 1023 0 s) ks s

/-- `ACQ` leaves alone what no search touches, but for the phase and the counters (41_correlator R160). -/
theorem acqDone_same (s : State) :
    (acqDone s).top = s.top ∧ (acqDone s).bot = s.bot ∧ (acqDone s).chip = s.chip ∧ (acqDone s).samp = s.samp ∧
      (acqDone s).svalid = s.svalid ∧ (acqDone s).err = s.err ∧ (acqDone s).ctrI = s.ctrI ∧ (acqDone s).tap = s.tap ∧
      (acqDone s).cmdIn = s.cmdIn ∧ (acqDone s).rstIn = s.rstIn ∧ (acqDone s).rsp = s.rsp := by
  have h := searchAll_same (List.finRange 24) (clearResults s)
  simp only [SameOutsideSearch] at h
  simp [acqDone, h]

theorem acqDone_bip (s : State) : (acqDone s).bip = (searchAll (List.finRange 24) (clearResults s)).bip := by simp only [acqDone]
theorem acqDone_acc (s : State) : (acqDone s).acc = (searchAll (List.finRange 24) (clearResults s)).acc := by simp only [acqDone]
theorem acqDone_res (s : State) : (acqDone s).res = (searchAll (List.finRange 24) (clearResults s)).res := by simp only [acqDone]
theorem acqDone_detlog (s : State) : (acqDone s).detlog = (searchAll (List.finRange 24) (clearResults s)).detlog := by simp only [acqDone]
theorem acqDone_det (s : State) : (acqDone s).det = (searchAll (List.finRange 24) (clearResults s)).det := by simp only [acqDone]
@[simp] theorem acqDone_phase (s : State) : (acqDone s).phase = .done := rfl
@[simp] theorem acqDone_ctrS (s : State) : (acqDone s).ctrS = none := rfl
@[simp] theorem acqDone_ctrD (s : State) : (acqDone s).ctrD = none := rfl
@[simp] theorem acqDone_ctrK (s : State) : (acqDone s).ctrK = none := rfl
@[simp] theorem acqDone_mop (s : State) : (acqDone s).mop = none := rfl

/-- The rows and results of other satellites are left alone by the search of `k`, and the log only grows. -/
theorem searchSat_other (k l : Fin 24) (h : k ≠ l) (s : State) :
    (searchSat k s).bip.get l = s.bip.get l ∧ (searchSat k s).res.get l = s.res.get l := by
  refine search_keeps k (fun s t => t.bip.get l = s.bip.get l ∧ t.res.get l = s.res.get l) ?_ ?_ ?_ ?_ ?_ 1023 0 s
  · intro a b c hab hbc; exact ⟨hbc.1.trans hab.1, hbc.2.trans hab.2⟩
  · intro s; simp
  · intro s; simp [Tab.get_set, h]
  · intro b d s; simp [Tab.get_set, h]
  · intro s; simp [Tab.get_set, h]

/-- The rows and results of satellites not searched are left alone. -/
theorem searchAll_other (ks : List (Fin 24)) (l : Fin 24) (h : l ∉ ks) (s : State) :
    (searchAll ks s).bip.get l = s.bip.get l ∧ (searchAll ks s).res.get l = s.res.get l := by
  induction ks generalizing s with
  | nil => exact ⟨rfl, rfl⟩
  | cons k ks ih =>
    rw [List.mem_cons, not_or] at h
    have h1 := ih h.2 (searchSat k s)
    have h2 := searchSat_other k l (Ne.symm h.1) s
    exact ⟨h1.1.trans h2.1, h1.2.trans h2.2⟩

/-- A product, a term at a time. -/
theorem dot_cons (x : BitVec 5) (c : Bipolar) (xs : List (Option (BitVec 5))) (bs : List (Option Bipolar)) :
    dot (some x :: xs) (some c :: bs) = (dot xs bs).map (sampleInt x * bipolarInt c + ·) := by
  rw [dot, term]
  cases dot xs bs <;> rfl

end Sys2Proof.Machine
end

