-- ==== Sys2Proof/Laws/Generator.lean ====
section
/-! SUPPORT. What a run of the generator leaves, element by element. -/

namespace Sys2Proof.Machine

open Sys2Proof

theorem regAfter_add (f : ShiftReg → ShiftReg) (m n : Nat) (x : ShiftReg) :
    regAfter f (m + n) x = regAfter f n (regAfter f m x) := by
  induction m generalizing x with
  | zero => rw [Nat.zero_add]; rfl
  | succ m ih => rw [Nat.succ_add]; exact ih (f x)

theorem regAfter_succ (f : ShiftReg → ShiftReg) (n : Nat) (x : ShiftReg) : regAfter f (n + 1) x = f (regAfter f n x) :=
  regAfter_add f n 1 x

/-- The chip of step `i` is a function of the registers at the start of step `i`. -/
theorem chipRow_get (p : TapPair) (n : Nat) (top bot : ShiftReg) (i : Nat) (h : i < (chipRow p n top bot).length) :
    (chipRow p n top bot)[i] = chipBit p (regAfter topNext i top) (regAfter botNext i bot) := by
  induction n generalizing top bot i with
  | zero => exact absurd h (Nat.not_lt_zero i)
  | succ n ih =>
    cases i with
    | zero => rfl
    | succ i => exact ih (topNext top) (botNext bot) i (Nat.lt_of_succ_lt_succ h)

theorem writtenRow_get (p : TapPair) (top bot : ShiftReg) (i : Fin 1023) :
    (writtenRow p top bot).get i = some (chipBit p (regAfter topNext i top) (regAfter botNext i bot)) := by
  simp [Tab.get, writtenRow, chipRow_get]

theorem chipRows_get (ps : List TapPair) (top bot : ShiftReg) (k : Nat) (h : k < (chipRows ps top bot).length) :
    (chipRows ps top bot)[k] = writtenRow (ps[k]'(chipRows_length ps top bot ▸ h)) (regAfter topNext (1023 * k) top)
      (regAfter botNext (1023 * k) bot) := by
  induction ps generalizing top bot k with
  | nil => exact absurd h (Nat.not_lt_zero k)
  | cons p ps ih =>
    cases k with
    | zero => rfl
    | succ k =>
      have hk : k < (chipRows ps (regAfter topNext 1023 top) (regAfter botNext 1023 bot)).length :=
        Nat.lt_of_succ_lt_succ h
      have e : 1023 * (k + 1) = 1023 + 1023 * k := by omega
      rw [e, regAfter_add, regAfter_add]
      exact ih _ _ k hk

/-- A completed generator run, chip by chip: the registers run on over all 24 × 1023 steps (40_generator R132, R136). -/
theorem genChip_read (tap : Tab TapPair 24) (k : Fin 24) (i : Fin 1023) :
    read2 (genChip tap) k i = some (chipBit (tap.get k) (regAfter topNext (1023 * k + i) allOnes)
      (regAfter botNext (1023 * k + i) allOnes)) := by
  have hk : k.val < (chipRows tap.cells allOnes allOnes).length := by
    rw [chipRows_length, tap.size_eq]
    exact k.isLt
  have e : (genChip tap).get k = writtenRow (tap.get k) (regAfter topNext (1023 * k) allOnes)
      (regAfter botNext (1023 * k) allOnes) := chipRows_get tap.cells allOnes allOnes k.val hk
  rw [read2, e, writtenRow_get, regAfter_add, regAfter_add]

/-- The bipolar table is the elementwise map of the chip table (40_generator R135). -/
theorem genBip_read (chip : Tab (Tab (Option Bool) 1023) 24) (k : Fin 24) (i : Fin 1023) :
    read2 (genBip chip) k i = (read2 chip k i).map bip := by
  simp [read2, genBip]

end Sys2Proof.Machine
end

