-- ==== Sys2Proof/Laws/Exec.lean ====
section
/-! SUPPORT. What each command can answer: its possible next states, once per command. -/

namespace Sys2Proof.Machine

open Sys2Proof

/-- The state after error entry, or after a refusal in FAULT, is the one the rules of errors name. -/
theorem raise_eq {e : Err} (h : e ≠ .faulted) (s : State) : raise e s = .next (errorState e s) := by
  simp [raise, errorState, h]

theorem refuseFaulted_eq (s : State) : refuseFaulted s = .next (errorState .faulted s) := rfl

theorem accepting_rest {s : State} (h : Accepting s) : busy s.phase = false ∧ s.phase ≠ .fault := by
  rcases h with h | h | h <;> simp [h, busy]

theorem accepting_of_rest {s : State} (hb : busy s.phase = false) (hf : s.phase ≠ .fault) : Accepting s := by
  revert hb hf
  unfold Accepting
  cases s.phase <;> simp [busy]

/-- A command legal in IDLE, READY and DONE: refused in FAULT, or the rest of it runs. -/
theorem anyPhase_next {s t : State} {k : Out} (h : inPhase anyPhase s k = .next t) :
    (s.phase = .fault ∧ t = respond (errWord .faulted) s) ∨ (Accepting s ∧ k = .next t) := by
  obtain ⟨hb, h | ⟨hf, hl, -⟩ | ⟨hf, -, h⟩⟩ := inPhase_next h
  · exact .inl h
  · rcases accepting_of_rest hb hf with h | h | h <;> simp [h, anyPhase] at hl
  · exact .inr ⟨accepting_of_rest hb hf, h⟩

/-- In an accepting phase such a command runs. -/
theorem anyPhase_run {s : State} (k : Out) (h : Accepting s) : inPhase anyPhase s k = k := by
  refine inPhase_legal k (accepting_rest h).1 (accepting_rest h).2 ?_
  rcases h with h | h | h <;> simp [h, anyPhase]

/-- A command that needs the tables: refused in FAULT, `E_SEQ` in IDLE, or the rest of it runs. -/
theorem tablesValid_next {s t : State} {k : Out} (h : inPhase tablesValid s k = .next t) :
    (s.phase = .fault ∧ t = respond (errWord .faulted) s) ∨
      (s.phase = .idle ∧ t = respond (errWord .seq) (latch .seq s)) ∨ (TablesReadable s ∧ k = .next t) := by
  obtain ⟨hb, h | ⟨hf, hl, h⟩ | ⟨hf, hl, h⟩⟩ := inPhase_next h
  · exact .inl h
  · refine .inr (.inl ⟨?_, h⟩)
    rcases accepting_of_rest hb hf with h | h | h
    · exact h
    all_goals simp [h, tablesValid] at hl
  · exact .inr (.inr ⟨by simpa [tablesValid, TablesReadable] using hl, h⟩)

theorem tablesValid_run {s : State} (k : Out) (h : TablesReadable s) : inPhase tablesValid s k = k := by
  have ha : Accepting s := .inr h
  refine inPhase_legal k (accepting_rest ha).1 (accepting_rest ha).2 ?_
  rcases h with h | h <;> simp [h, tablesValid]

/-- `ACQ`'s phase: refused in FAULT, `E_SEQ` in IDLE and DONE, or the rest of it runs. -/
theorem readyOnly_next {s t : State} {k : Out} (h : inPhase readyOnly s k = .next t) :
    (s.phase = .fault ∧ t = respond (errWord .faulted) s) ∨
      ((s.phase = .idle ∨ s.phase = .done) ∧ t = respond (errWord .seq) (latch .seq s)) ∨
      (s.phase = .ready ∧ k = .next t) := by
  obtain ⟨hb, h | ⟨hf, hl, h⟩ | ⟨hf, hl, h⟩⟩ := inPhase_next h
  · exact .inl h
  · refine .inr (.inl ⟨?_, h⟩)
    rcases accepting_of_rest hb hf with h | h | h
    · exact .inl h
    · simp [h, readyOnly] at hl
    · exact .inr h
  · exact .inr (.inr ⟨by simpa [readyOnly] using hl, h⟩)

theorem readyOnly_run {s : State} (k : Out) (h : s.phase = .ready) : inPhase readyOnly s k = k :=
  inPhase_legal k (by simp [h, busy]) (by simp [h]) (by simp [h, readyOnly])

theorem execNop_next {s t : State} (h : exec .nop s = .next t) :
    (s.phase = .fault ∧ t = respond (errWord .faulted) s) ∨ (Accepting s ∧ t = respond 0 s) :=
  (anyPhase_next h).imp_right (And.imp_right answer_next)

theorem execRst_next {s t : State} (h : exec .rst s = .next t) :
    busy s.phase = false ∧ t = respond 0 (applyReset s) :=
  (inAnyPhase_next h).imp_right answer_next

theorem execRdstat_next {s t : State} (h : exec .rdstat s = .next t) :
    busy s.phase = false ∧ t = respond (statWord s) s :=
  (inAnyPhase_next h).imp_right answer_next

theorem execLds_next {i : Nat} {v : Int} {s t : State} (h : exec (.lds i v) s = .next t) :
    (s.phase = .fault ∧ t = respond (errWord .faulted) s) ∨
      (Accepting s ∧ ((¬i < 1023 ∧ t = respond (errWord .index) (latch .index s)) ∨
        ∃ hi : i < 1023, (¬(-9 ≤ v ∧ v ≤ 9) ∧ t = respond (errWord .range) (latch .range s)) ∨
          ((-9 ≤ v ∧ v ≤ 9) ∧ t = respond 0 (writeSample ⟨i, hi⟩ (BitVec.ofInt 5 v) s)))) := by
  refine (anyPhase_next h).imp_right (And.imp_right fun h => ?_)
  refine (withIndex_next h).imp_right fun ⟨hi, h⟩ => ⟨hi, ?_⟩
  exact (withSample_next h).imp_right (And.imp_right answer_next)

theorem execGen_next {s t : State} (h : exec .gen s = .next t) :
    (s.phase = .fault ∧ t = respond (errWord .faulted) s) ∨
      (Accepting s ∧ ((s.rstIn = [] ∧ t = respond 0 (genDone s)) ∨ (s.rstIn ≠ [] ∧ t = genStart s))) := by
  refine (anyPhase_next h).imp_right (And.imp_right fun h => ?_)
  split at h
  · exact .inl ⟨‹_›, answer_next h⟩
  · cases h
    exact .inr ⟨‹_›, rfl⟩

theorem execAcq_next {s t : State} (h : exec .acq s = .next t) :
    (s.phase = .fault ∧ t = respond (errWord .faulted) s) ∨
      ((s.phase = .idle ∨ s.phase = .done) ∧ t = respond (errWord .seq) (latch .seq s)) ∨
      (s.phase = .ready ∧ ((sfull s = false ∧ t = respond (errWord .uninit) (latch .uninit s)) ∨
        (sfull s = true ∧
          ((s.rstIn = [] ∧ acqReadable s = true ∧ t = respond 0 (acqDone s)) ∨ (s.rstIn ≠ [] ∧ t = acqStart s))))) := by
  refine (readyOnly_next h).imp_right (Or.imp_right (And.imp_right fun h => ?_))
  refine (needSamples_next h).imp_right (And.imp_right fun h => ?_)
  split at h
  · exact .inl ⟨‹_›, (needTables_next h).imp_right answer_next⟩
  · cases h
    exact .inr ⟨‹_›, rfl⟩

/-- `ACQ` where it is legal and finds every value it reads. -/
theorem execAcq_run {s : State} (hp : s.phase = .ready) (hs : sfull s = true) (hr : acqReadable s = true) :
    exec .acq s = if s.rstIn = [] then .next (respond 0 (acqDone s)) else .next (acqStart s) := by
  simp only [exec, execAcq, readyOnly_run _ hp, needSamples, hs, needTables, hr, if_true, answer]

/-- `ACQ` where it is legal and a reset is coming starts, whatever the tables hold. -/
theorem execAcq_start {s : State} (hp : s.phase = .ready) (hs : sfull s = true) (hi : s.rstIn ≠ []) :
    exec .acq s = .next (acqStart s) := by
  simp only [exec, execAcq, readyOnly_run _ hp, needSamples, hs, if_true, hi, if_false]

/-- `GEN` where it is legal. -/
theorem execGen_run {s : State} (h : Accepting s) :
    exec .gen s = if s.rstIn = [] then .next (respond 0 (genDone s)) else .next (genStart s) := by
  simp only [exec, execGen, anyPhase_run _ h, answer]

theorem execRdr_next {n : Nat} {s t : State} (h : exec (.rdr n) s = .next t) :
    (s.phase = .fault ∧ t = respond (errWord .faulted) s) ∨
      (Accepting s ∧ ((¬n < 24 ∧ t = respond (errWord .index) (latch .index s)) ∨
        ∃ hn : n < 24, t = respond (recordWord (s.res.get ⟨n, hn⟩) (satId ⟨n, hn⟩)) s)) := by
  refine (anyPhase_next h).imp_right (And.imp_right fun h => ?_)
  exact (withSat_next h).imp_right fun ⟨hn, h⟩ => ⟨hn, answer_next h⟩

theorem execRdt_next {n : Nat} {s t : State} (h : exec (.rdt n) s = .next t) :
    (s.phase = .fault ∧ t = respond (errWord .faulted) s) ∨
      (Accepting s ∧ ((¬n < 24 ∧ t = respond (errWord .index) (latch .index s)) ∨
        ∃ hn : n < 24, t = respond (tapWord (s.tap.get ⟨n, hn⟩)) s)) := by
  refine (anyPhase_next h).imp_right (And.imp_right fun h => ?_)
  exact (withSat_next h).imp_right fun ⟨hn, h⟩ => ⟨hn, answer_next h⟩

theorem execRdc_next {n i : Nat} {s t : State} (h : exec (.rdc n i) s = .next t) :
    (s.phase = .fault ∧ t = respond (errWord .faulted) s) ∨
      (s.phase = .idle ∧ t = respond (errWord .seq) (latch .seq s)) ∨
      (TablesReadable s ∧ ((¬n < 24 ∧ t = respond (errWord .index) (latch .index s)) ∨
        ∃ hn : n < 24, (¬i < 1023 ∧ t = respond (errWord .index) (latch .index s)) ∨
          ∃ (hi : i < 1023) (c : Bool), read2 s.chip ⟨n, hn⟩ ⟨i, hi⟩ = some c ∧ t = respond (chipWord c) s)) := by
  refine (tablesValid_next h).imp_right (Or.imp_right (And.imp_right fun h => ?_))
  refine (withSat_next h).imp_right fun ⟨hn, h⟩ => ⟨hn, ?_⟩
  refine (withIndex_next h).imp_right fun ⟨hi, h⟩ => ⟨hi, ?_⟩
  exact (withValue_next h).imp fun c h => h.imp_right answer_next

theorem execRdb_next {n i : Nat} {s t : State} (h : exec (.rdb n i) s = .next t) :
    (s.phase = .fault ∧ t = respond (errWord .faulted) s) ∨
      (s.phase = .idle ∧ t = respond (errWord .seq) (latch .seq s)) ∨
      (TablesReadable s ∧ ((¬n < 24 ∧ t = respond (errWord .index) (latch .index s)) ∨
        ∃ hn : n < 24, (¬i < 1023 ∧ t = respond (errWord .index) (latch .index s)) ∨
          ∃ (hi : i < 1023) (c : Bipolar), read2 s.bip ⟨n, hn⟩ ⟨i, hi⟩ = some c ∧ t = respond (bipWord c) s)) := by
  refine (tablesValid_next h).imp_right (Or.imp_right (And.imp_right fun h => ?_))
  refine (withSat_next h).imp_right fun ⟨hn, h⟩ => ⟨hn, ?_⟩
  refine (withIndex_next h).imp_right fun ⟨hi, h⟩ => ⟨hi, ?_⟩
  exact (withValue_next h).imp fun c h => h.imp_right answer_next

theorem execRds_next {i : Nat} {s t : State} (h : exec (.rds i) s = .next t) :
    (s.phase = .fault ∧ t = respond (errWord .faulted) s) ∨
      (Accepting s ∧ ((¬i < 1023 ∧ t = respond (errWord .index) (latch .index s)) ∨
        ∃ hi : i < 1023, (s.svalid.get ⟨i, hi⟩ = false ∧ t = respond (errWord .uninit) (latch .uninit s)) ∨
          (s.svalid.get ⟨i, hi⟩ = true ∧ ∃ v, s.samp.get ⟨i, hi⟩ = some v ∧ t = respond (sampleWord v) s))) := by
  refine (anyPhase_next h).imp_right (And.imp_right fun h => ?_)
  refine (withIndex_next h).imp_right fun ⟨hi, h⟩ => ⟨hi, ?_⟩
  refine (needSample_next h).imp_right (And.imp_right fun h => ?_)
  exact (withValue_next h).imp fun v h => h.imp_right answer_next

/-- Everything a command can do to the state: a response alone, error entry, or the effect of one of the four commands that
write. -/
theorem exec_effect {i : Instr} {s t : State} (h : exec i s = .next t) :
    busy s.phase = false ∧
      ((∃ w, t = respond w s) ∨
        (∃ e, e ≠ .none ∧ e ≠ .faulted ∧ s.phase ≠ .fault ∧ t = respond (errWord e) (latch e s)) ∨
        (i = .rst ∧ t = respond 0 (applyReset s)) ∨
        (Accepting s ∧ ∃ (k : Fin 1023) (v : Int), i = .lds k v ∧ -9 ≤ v ∧ v ≤ 9 ∧
          t = respond 0 (writeSample k (BitVec.ofInt 5 v) s)) ∨
        (Accepting s ∧ i = .gen ∧ ((s.rstIn = [] ∧ t = respond 0 (genDone s)) ∨ (s.rstIn ≠ [] ∧ t = genStart s))) ∨
        (s.phase = .ready ∧ i = .acq ∧ sfull s = true ∧
          ((s.rstIn = [] ∧ acqReadable s = true ∧ t = respond 0 (acqDone s)) ∨ (s.rstIn ≠ [] ∧ t = acqStart s)))) := by
  have fault_rest : s.phase = .fault → busy s.phase = false := fun h => by simp [h, busy]
  have idle_rest : s.phase = .idle → busy s.phase = false ∧ s.phase ≠ .fault := fun h => by simp [h, busy]
  have done_rest : s.phase = .done → busy s.phase = false ∧ s.phase ≠ .fault := fun h => by simp [h, busy]
  have ready_rest : s.phase = .ready → busy s.phase = false ∧ s.phase ≠ .fault := fun h => by simp [h, busy]
  cases i with
  | nop =>
    rcases execNop_next h with ⟨hf, rfl⟩ | ⟨ha, rfl⟩
    · exact ⟨fault_rest hf, .inl ⟨_, rfl⟩⟩
    · exact ⟨(accepting_rest ha).1, .inl ⟨_, rfl⟩⟩
  | rst =>
    obtain ⟨hb, rfl⟩ := execRst_next h
    exact ⟨hb, .inr (.inr (.inl ⟨rfl, rfl⟩))⟩
  | lds k v =>
    rcases execLds_next h with ⟨hf, rfl⟩ | ⟨ha, ⟨-, rfl⟩ | ⟨hk, ⟨-, rfl⟩ | ⟨hv, rfl⟩⟩⟩
    · exact ⟨fault_rest hf, .inl ⟨_, rfl⟩⟩
    · exact ⟨(accepting_rest ha).1, .inr (.inl ⟨_, by decide, by decide, (accepting_rest ha).2, rfl⟩)⟩
    · exact ⟨(accepting_rest ha).1, .inr (.inl ⟨_, by decide, by decide, (accepting_rest ha).2, rfl⟩)⟩
    · exact ⟨(accepting_rest ha).1, .inr (.inr (.inr (.inl ⟨ha, ⟨k, hk⟩, v, rfl, hv.1, hv.2, rfl⟩)))⟩
  | gen =>
    rcases execGen_next h with ⟨hf, rfl⟩ | ⟨ha, h⟩
    · exact ⟨fault_rest hf, .inl ⟨_, rfl⟩⟩
    · exact ⟨(accepting_rest ha).1, .inr (.inr (.inr (.inr (.inl ⟨ha, rfl, h⟩))))⟩
  | acq =>
    rcases execAcq_next h with ⟨hf, rfl⟩ | ⟨hp, rfl⟩ | ⟨hp, ⟨-, rfl⟩ | ⟨hs, h⟩⟩
    · exact ⟨fault_rest hf, .inl ⟨_, rfl⟩⟩
    · have hb := hp.elim idle_rest done_rest
      exact ⟨hb.1, .inr (.inl ⟨_, by decide, by decide, hb.2, rfl⟩)⟩
    · exact ⟨(ready_rest hp).1, .inr (.inl ⟨_, by decide, by decide, (ready_rest hp).2, rfl⟩)⟩
    · exact ⟨(ready_rest hp).1, .inr (.inr (.inr (.inr (.inr ⟨hp, rfl, hs, h⟩))))⟩
  | rdstat =>
    obtain ⟨hb, rfl⟩ := execRdstat_next h
    exact ⟨hb, .inl ⟨_, rfl⟩⟩
  | rdr n =>
    rcases execRdr_next h with ⟨hf, rfl⟩ | ⟨ha, ⟨-, rfl⟩ | ⟨-, rfl⟩⟩
    · exact ⟨fault_rest hf, .inl ⟨_, rfl⟩⟩
    · exact ⟨(accepting_rest ha).1, .inr (.inl ⟨_, by decide, by decide, (accepting_rest ha).2, rfl⟩)⟩
    · exact ⟨(accepting_rest ha).1, .inl ⟨_, rfl⟩⟩
  | rdc n k =>
    rcases execRdc_next h with ⟨hf, rfl⟩ | ⟨hp, rfl⟩ | ⟨ha, ⟨-, rfl⟩ | ⟨-, ⟨-, rfl⟩ | ⟨-, -, -, rfl⟩⟩⟩
    · exact ⟨fault_rest hf, .inl ⟨_, rfl⟩⟩
    · exact ⟨(idle_rest hp).1, .inr (.inl ⟨_, by decide, by decide, (idle_rest hp).2, rfl⟩)⟩
    · have hb := ha.elim ready_rest done_rest
      exact ⟨hb.1, .inr (.inl ⟨_, by decide, by decide, hb.2, rfl⟩)⟩
    · have hb := ha.elim ready_rest done_rest
      exact ⟨hb.1, .inr (.inl ⟨_, by decide, by decide, hb.2, rfl⟩)⟩
    · exact ⟨(ha.elim ready_rest done_rest).1, .inl ⟨_, rfl⟩⟩
  | rdb n k =>
    rcases execRdb_next h with ⟨hf, rfl⟩ | ⟨hp, rfl⟩ | ⟨ha, ⟨-, rfl⟩ | ⟨-, ⟨-, rfl⟩ | ⟨-, -, -, rfl⟩⟩⟩
    · exact ⟨fault_rest hf, .inl ⟨_, rfl⟩⟩
    · exact ⟨(idle_rest hp).1, .inr (.inl ⟨_, by decide, by decide, (idle_rest hp).2, rfl⟩)⟩
    · have hb := ha.elim ready_rest done_rest
      exact ⟨hb.1, .inr (.inl ⟨_, by decide, by decide, hb.2, rfl⟩)⟩
    · have hb := ha.elim ready_rest done_rest
      exact ⟨hb.1, .inr (.inl ⟨_, by decide, by decide, hb.2, rfl⟩)⟩
    · exact ⟨(ha.elim ready_rest done_rest).1, .inl ⟨_, rfl⟩⟩
  | rds k =>
    rcases execRds_next h with ⟨hf, rfl⟩ | ⟨ha, ⟨-, rfl⟩ | ⟨-, ⟨-, rfl⟩ | ⟨-, -, -, rfl⟩⟩⟩
    · exact ⟨fault_rest hf, .inl ⟨_, rfl⟩⟩
    · exact ⟨(accepting_rest ha).1, .inr (.inl ⟨_, by decide, by decide, (accepting_rest ha).2, rfl⟩)⟩
    · exact ⟨(accepting_rest ha).1, .inr (.inl ⟨_, by decide, by decide, (accepting_rest ha).2, rfl⟩)⟩
    · exact ⟨(accepting_rest ha).1, .inl ⟨_, rfl⟩⟩
  | rdt n =>
    rcases execRdt_next h with ⟨hf, rfl⟩ | ⟨ha, ⟨-, rfl⟩ | ⟨-, rfl⟩⟩
    · exact ⟨fault_rest hf, .inl ⟨_, rfl⟩⟩
    · exact ⟨(accepting_rest ha).1, .inr (.inl ⟨_, by decide, by decide, (accepting_rest ha).2, rfl⟩)⟩
    · exact ⟨(accepting_rest ha).1, .inl ⟨_, rfl⟩⟩

end Sys2Proof.Machine
end

