-- ==== Sys2Proof/Laws/Micro.lean ====
section
/-! SUPPORT. What one step of the busy sequencer can do, and how its loops advance. -/

namespace Sys2Proof.Machine

open Sys2Proof

theorem succIndex_some {i j : Fin 1023} (h : succIndex i = some j) : j.val = i.val + 1 := by
  unfold succIndex at h
  split at h
  · cases h
    rfl
  · cases h

theorem succIndex_none {i : Fin 1023} (h : succIndex i = none) : i.val = 1022 := by
  unfold succIndex at h
  split at h
  · cases h
  · omega

theorem succSat_some {k l : Fin 24} (h : succSat k = some l) : l.val = k.val + 1 := by
  unfold succSat at h
  split at h
  · cases h
    rfl
  · cases h

theorem succSat_none {k : Fin 24} (h : succSat k = none) : k.val = 23 := by
  unfold succSat at h
  split at h
  · cases h
  · omega

/-- The next position of the loop over satellites and elements is the next step of the run. -/
theorem succPos_some {k l : Fin 24} {i j : Fin 1023} (h : succPos k i = some (l, j)) :
    1023 * l.val + j.val = 1023 * k.val + i.val + 1 := by
  unfold succPos at h
  split at h
  · rename_i hj
    cases h
    have := succIndex_some hj
    omega
  · rename_i hi hl
    cases h
    have h1 := succIndex_none hi
    have h2 := succSat_some hl
    simp only [Fin.val_zero]
    omega
  · cases h

theorem succPos_none {k : Fin 24} {i : Fin 1023} (h : succPos k i = none) : k.val = 23 ∧ i.val = 1022 := by
  unfold succPos at h
  split at h
  · cases h
  · cases h
  · rename_i hi hl
    exact ⟨succSat_none hl, succIndex_none hi⟩

/-- A step of the busy sequencer is one of the five micro-operations of the generator or the four of the correlator, each
with the values it read. -/
theorem micro_cases {s t : State} (h : micro s = .next t) :
    (s.phase = .genRun ∧
      ((s.mop = some .gInit ∧ t = { s with
          top := some allOnes, bot := some allOnes, ctrS := some 0, ctrI := some 0, mop := some .gChip }) ∨
        (s.mop = some .gChip ∧ ∃ k i x y, s.ctrS = some k ∧ s.ctrI = some i ∧ s.top = some x ∧ s.bot = some y ∧
          t = { s with chip := write2 s.chip k i (some (chipBit (s.tap.get k) x y)), mop := some .gTop }) ∨
        (s.mop = some .gTop ∧ ∃ x, s.top = some x ∧ t = { s with top := some (topNext x), mop := some .gBot }) ∨
        (s.mop = some .gBot ∧ ∃ k i y, s.ctrS = some k ∧ s.ctrI = some i ∧ s.bot = some y ∧
          t = afterChip k i { s with bot := some (botNext y) }) ∨
        (s.mop = some .gMap ∧ ∃ k i c, s.ctrS = some k ∧ s.ctrI = some i ∧ read2 s.chip k i = some c ∧
          t = afterMap k i { s with bip := write2 s.bip k i (some (bip c)) }))) ∨
    (s.phase = .acqRun ∧
      ((s.mop = some .cClr ∧ t = { s with acc := some 0, ctrK := some 0, mop := some .cMac }) ∨
        (s.mop = some .cMac ∧ ∃ k j a x c, s.ctrS = some k ∧ s.ctrK = some j ∧ s.acc = some a ∧
          s.samp.get j = some x ∧ read2 s.bip k j = some c ∧
          t = afterMac j { s with acc := some (a + BitVec.ofInt 16 (sampleInt x * bipolarInt c)) }) ∨
        (s.mop = some .cDecide ∧ ∃ k d a, s.ctrS = some k ∧ s.ctrD = some d ∧ s.acc = some a ∧
          ((∃ bit, decideAcc a = .hit bit ∧ t = afterSearch k (emitFound k bit d s)) ∨
            (decideAcc a = .miss ∧ t = { s with mop := some .cRot }))) ∨
        (s.mop = some .cRot ∧ ∃ k d, s.ctrS = some k ∧ s.ctrD = some d ∧ t = afterRot k d (cRot k s)))) := by
  unfold micro at h
  split at h
  · rename_i m hp hm
    refine .inl ⟨hp, ?_⟩
    cases m with
    | gInit => cases h; exact .inl ⟨hm, rfl⟩
    | gChip =>
      obtain ⟨k, hk, h⟩ := withValue_next h
      obtain ⟨i, hi, h⟩ := withValue_next h
      obtain ⟨x, hx, h⟩ := withValue_next h
      obtain ⟨y, hy, h⟩ := withValue_next h
      cases h
      exact .inr (.inl ⟨hm, k, i, x, y, hk, hi, hx, hy, rfl⟩)
    | gTop =>
      obtain ⟨x, hx, h⟩ := withValue_next h
      cases h
      exact .inr (.inr (.inl ⟨hm, x, hx, rfl⟩))
    | gBot =>
      obtain ⟨k, hk, h⟩ := withValue_next h
      obtain ⟨i, hi, h⟩ := withValue_next h
      obtain ⟨y, hy, h⟩ := withValue_next h
      cases h
      exact .inr (.inr (.inr (.inl ⟨hm, k, i, y, hk, hi, hy, rfl⟩)))
    | gMap =>
      obtain ⟨k, hk, h⟩ := withValue_next h
      obtain ⟨i, hi, h⟩ := withValue_next h
      obtain ⟨c, hc, h⟩ := withValue_next h
      cases h
      exact .inr (.inr (.inr (.inr ⟨hm, k, i, c, hk, hi, hc, rfl⟩)))
    | cClr => cases h
    | cMac => cases h
    | cDecide => cases h
    | cRot => cases h
  · rename_i m hp hm
    refine .inr ⟨hp, ?_⟩
    cases m with
    | cClr => cases h; exact .inl ⟨hm, rfl⟩
    | cMac =>
      obtain ⟨k, hk, h⟩ := withValue_next h
      obtain ⟨j, hj, h⟩ := withValue_next h
      obtain ⟨a, ha, h⟩ := withValue_next h
      obtain ⟨x, hx, h⟩ := withValue_next h
      obtain ⟨c, hc, h⟩ := withValue_next h
      cases h
      exact .inr (.inl ⟨hm, k, j, a, x, c, hk, hj, ha, hx, hc, rfl⟩)
    | cDecide =>
      obtain ⟨k, hk, h⟩ := withValue_next h
      obtain ⟨d, hd, h⟩ := withValue_next h
      obtain ⟨a, ha, h⟩ := withValue_next h
      refine .inr (.inr (.inl ⟨hm, k, d, a, hk, hd, ha, ?_⟩))
      split at h
      · cases h
        exact .inl ⟨_, ‹_›, rfl⟩
      · cases h
        exact .inr ⟨‹_›, rfl⟩
    | cRot =>
      obtain ⟨k, hk, h⟩ := withValue_next h
      obtain ⟨d, hd, h⟩ := withValue_next h
      cases h
      exact .inr (.inr (.inr ⟨hm, k, d, hk, hd, rfl⟩))
    | gInit => cases h
    | gChip => cases h
    | gTop => cases h
    | gBot => cases h
    | gMap => cases h
  · cases h

end Sys2Proof.Machine
end

