-- ==== Sys2Proof/Laws/PerInstr.lean ====
section
/-! SUPPORT. A fact about each command as syntax: its word carries its opcode in `w[31:28]` (30_encoding R91). -/

namespace Sys2Proof.Laws.OpcodeField

open Sys2Proof

/-- The encoder puts the command's opcode in `w[31:28]`. -/
def Statement (i : Instr) : Prop := i.WellFormed → bits (encode i) 31 28 = opcode i

theorem tc5_lt (v : Int) : tc 5 v < 32 := by
  unfold tc
  omega

/-- A word whose operand bits stay below bit 28 carries its opcode. -/
theorem of_operandBits {i : Instr} (ho : opcode i < 16) (hb : operandBits i < 2 ^ 28) :
    bits (encode i) 31 28 = opcode i := by
  simp only [bits, encode, BitVec.toNat_ofNat]
  omega

theorem nop : Statement .nop := fun _ => by decide

theorem rst : Statement .rst := fun _ => by decide

theorem lds (i : Nat) (val : Int) : Statement (.lds i val) := fun h => by
  have hv := tc5_lt val
  simp [Instr.WellFormed, Instr.wf, indexFits, valFits] at h
  exact of_operandBits (by simp [opcode]) (by simp only [operandBits]; omega)

theorem gen : Statement .gen := fun _ => by decide

theorem acq : Statement .acq := fun _ => by decide

theorem rdstat : Statement .rdstat := fun _ => by decide

theorem rdr (s : Nat) : Statement (.rdr s) := fun h => by
  simp [Instr.WellFormed, Instr.wf, satFits] at h
  exact of_operandBits (by simp [opcode]) (by simp only [operandBits]; omega)

theorem rdc (s i : Nat) : Statement (.rdc s i) := fun h => by
  simp [Instr.WellFormed, Instr.wf, indexFits, satFits] at h
  exact of_operandBits (by simp [opcode]) (by simp only [operandBits]; omega)

theorem rdb (s i : Nat) : Statement (.rdb s i) := fun h => by
  simp [Instr.WellFormed, Instr.wf, indexFits, satFits] at h
  exact of_operandBits (by simp [opcode]) (by simp only [operandBits]; omega)

theorem rds (i : Nat) : Statement (.rds i) := fun h => by
  simp [Instr.WellFormed, Instr.wf, indexFits] at h
  exact of_operandBits (by simp [opcode]) (by simp only [operandBits]; omega)

theorem rdt (s : Nat) : Statement (.rdt s) := fun h => by
  simp [Instr.WellFormed, Instr.wf, satFits] at h
  exact of_operandBits (by simp [opcode]) (by simp only [operandBits]; omega)

end Sys2Proof.Laws.OpcodeField
end

