-- ==== Sys2Proof/Laws/Rotation.lean ====
section
/-! SUPPORT. Rotations by a number of positions, and the numbering of the generator's steps. -/

namespace Sys2Proof.Machine

open Sys2Proof

theorem backBy_zero (i : Fin 1023) : backBy 0 i = i := by
  have h := i.isLt
  exact Fin.ext (by simp only [backBy]; omega)

/-- No rotation. -/
theorem isRotr_zero {α : Type} (t : Tab α 1023) : IsRotr 0 t t := fun i => by rw [backBy_zero]

/-- 1023 rotations are none (00_scope R18). -/
theorem isRotr_full {α : Type} {t u : Tab α 1023} (h : IsRotr 1023 t u) : IsRotr 0 t u := fun i => h i

/-- One rotation more (41_correlator R166). -/
theorem isRotr_succ {α : Type} {d : Nat} {t u : Tab α 1023} (h : IsRotr d t u) :
    IsRotr (d + 1) (rotrTab t) u := by
  intro i
  have hi := i.isLt
  rw [rotrTab_get]
  split
  · rw [h]
    congr 1
    apply Fin.ext
    simp only [backBy]
    omega
  · rw [h]
    congr 1
    apply Fin.ext
    simp only [backBy]
    omega

/-- Every step of the generator writes a chip of its own (40_generator R136). -/
theorem chipStep_inj {k l : Fin 24} {i j : Fin 1023} : chipStep k i = chipStep l j ↔ k = l ∧ i = j := by
  have hi := i.isLt
  have hj := j.isLt
  rw [Fin.ext_iff, Fin.ext_iff]
  unfold chipStep
  omega

theorem chipStep_lt (k : Fin 24) (i : Fin 1023) : chipStep k i < 24552 := by
  have hk := k.isLt
  have hi := i.isLt
  unfold chipStep
  omega

end Sys2Proof.Machine
end

