-- ==== Sys2Proof/Laws/Step.lean ====
section
/-! SUPPORT. What a step and an accepted word can do. -/

namespace Sys2Proof.Machine

open Sys2Proof

/-- A step is a reset, or a tick of the machine with the reset schedule moved on. -/
theorem step_cases {s t : State} (h : step s = .next t) :
    (∃ rest, s.rstIn = 0 :: rest ∧ t = applyReset { s with rstIn := rest }) ∨
      (s.rstIn = [] ∧ tick s = .next t) ∨
      ∃ n rest, s.rstIn = (n + 1) :: rest ∧ tick { s with rstIn := n :: rest } = .next t := by
  unfold step at h
  split at h
  · exact .inr (.inl ⟨‹_›, h⟩)
  · rename_i rest hr
    cases h
    exact .inl ⟨rest, hr, rfl⟩
  · rename_i n rest hr
    exact .inr (.inr ⟨n, rest, hr, h⟩)

/-- A tick is a micro-operation, a wait, or the acceptance of the next word. -/
theorem tick_cases {s t : State} (h : tick s = .next t) :
    (busy s.phase = true ∧ micro s = .next t) ∨ (busy s.phase = false ∧ s.cmdIn = [] ∧ t = s) ∨
      ∃ w ws, busy s.phase = false ∧ s.cmdIn = w :: ws ∧ accept w { s with cmdIn := ws } = .next t := by
  unfold tick at h
  split at h
  · exact .inl ⟨‹_›, h⟩
  · rename_i hb
    have hb' : busy s.phase = false := by simpa using hb
    split at h
    · cases h
      exact .inr (.inl ⟨hb', ‹_›, rfl⟩)
    · rename_i w ws hw
      exact .inr (.inr ⟨w, ws, hb', hw, h⟩)

theorem later_cons (n : Nat) (rest : List Nat) : later ((n + 1) :: rest) = n :: rest := rfl

/-- A step in which no reset is due is a tick of the machine with the reset schedule moved on. -/
theorem step_noReset {s : State} (h : s.rstIn.head? ≠ some 0) : step s = tick { s with rstIn := later s.rstIn } := by
  unfold step
  split
  · rename_i hr
    rw [hr]
    exact congrArg tick (by rw [later, ← hr])
  · rename_i rest hr
    simp [hr] at h
  · rename_i n rest hr
    rw [hr]
    rfl

/-- Everything a step can do: a reset, a micro-operation, a wait, or the acceptance of the next word. -/
theorem step_next {s t : State} (h : step s = .next t) :
    (∃ rest, s.rstIn = 0 :: rest ∧ t = applyReset { s with rstIn := rest }) ∨
      (s.rstIn.head? ≠ some 0 ∧
        ((busy s.phase = true ∧ micro { s with rstIn := later s.rstIn } = .next t) ∨
          (busy s.phase = false ∧ s.cmdIn = [] ∧ t = { s with rstIn := later s.rstIn }) ∨
          ∃ w ws, busy s.phase = false ∧ s.cmdIn = w :: ws ∧
            accept w { s with cmdIn := ws, rstIn := later s.rstIn } = .next t)) := by
  rcases step_cases h with h | ⟨hr, h⟩ | ⟨n, rest, hr, h⟩
  · exact .inl h
  · have e : { s with rstIn := later s.rstIn } = s := by rw [hr, later, ← hr]
    refine .inr ⟨by simp [hr], (tick_cases h).imp (fun h => by rwa [e]) (Or.imp (fun h => by rwa [e]) ?_)⟩
    rintro ⟨w, ws, hb, hw, h⟩
    exact ⟨w, ws, hb, hw, by rw [hr, later]; rw [← hr]; exact h⟩
  · refine .inr ⟨by simp [hr], ?_⟩
    rw [hr]
    exact tick_cases h

/-- An accepted word is refused in FAULT, raises a decoding error, or runs its command. -/
theorem accept_cases {w : Word} {s t : State} (h : accept w s = .next t) :
    (s.phase = .fault ∧ legalInFault w = false ∧ t = respond (errWord .faulted) s) ∨
      (¬(s.phase = .fault ∧ legalInFault w = false) ∧
        ((∃ e, decode w = .error e ∧ t = respond (errWord (illegalErr e)) (latch (illegalErr e) s)) ∨
          ∃ i, decode w = .ok i ∧ exec i s = .next t)) := by
  unfold accept at h
  split at h
  · rename_i hf
    exact .inl ⟨hf.1, hf.2, refuseFaulted_next h⟩
  · rename_i hf
    refine .inr ⟨hf, ?_⟩
    split at h
    · exact .inl ⟨_, ‹_›, raise_next h⟩
    · exact .inr ⟨_, ‹_›, h⟩

/-- Everything an accepted word can do to the state: a response alone, error entry, or the effect of one of the four commands
that write. -/
theorem accept_effect {w : Word} {s t : State} (h : accept w s = .next t) :
    (∃ r, t = respond r s) ∨ (∃ e, e ≠ .none ∧ e ≠ .faulted ∧ t = respond (errWord e) (latch e s)) ∨
      (decode w = .ok .rst ∧ t = respond 0 (applyReset s)) ∨
      (Accepting s ∧ ∃ (k : Fin 1023) (v : Int), -9 ≤ v ∧ v ≤ 9 ∧ t = respond 0 (writeSample k (BitVec.ofInt 5 v) s)) ∨
      (Accepting s ∧ ((s.rstIn = [] ∧ t = respond 0 (genDone s)) ∨ (s.rstIn ≠ [] ∧ t = genStart s))) ∨
      (s.phase = .ready ∧ sfull s = true ∧
        ((s.rstIn = [] ∧ acqReadable s = true ∧ t = respond 0 (acqDone s)) ∨ (s.rstIn ≠ [] ∧ t = acqStart s))) := by
  rcases accept_cases h with ⟨-, -, rfl⟩ | ⟨-, ⟨e, -, rfl⟩ | ⟨i, hd, h⟩⟩
  · exact .inl ⟨_, rfl⟩
  · exact .inr (.inl ⟨_, by cases e <;> decide, by cases e <;> decide, rfl⟩)
  · rcases (exec_effect h).2 with h' | ⟨e, h1, h2, -, h'⟩ | ⟨rfl, h'⟩ | ⟨ha, k, v, -, h'⟩ | ⟨ha, -, h'⟩ | ⟨hp, -, h'⟩
    · exact .inl h'
    · exact .inr (.inl ⟨e, h1, h2, h'⟩)
    · exact .inr (.inr (.inl ⟨hd, h'⟩))
    · exact .inr (.inr (.inr (.inl ⟨ha, k, v, h'⟩)))
    · exact .inr (.inr (.inr (.inr (.inl ⟨ha, h'⟩))))
    · exact .inr (.inr (.inr (.inr (.inr ⟨hp, h'⟩))))

/-- `P` is kept by every step from a state where `Q` holds, if it is kept by each of the things a step can do; `P` and `Q` do
not depend on the words offered and the reset schedule. -/
theorem step_keeps (P Q : State → Prop) (hostQ : ∀ s w r, Q s → Q { s with cmdIn := w, rstIn := r })
    (hostP : ∀ s w r, P s → P { s with cmdIn := w, rstIn := r }) (hrespond : ∀ s w, P s → P (respond w s))
    (hreset : ∀ s, P (applyReset s))
    (hlatch : ∀ s e, busy s.phase = false → e ≠ .none → e ≠ .faulted → P s → P (latch e s))
    (hlds : ∀ s k v, Accepting s → -9 ≤ v → v ≤ 9 → P s → P (writeSample k (BitVec.ofInt 5 v) s))
    (hgen : ∀ s, Accepting s → Q s → P s → P (genDone s) ∧ P (genStart s))
    (hacq : ∀ s, s.phase = .ready → sfull s = true → Q s → P s →
      (acqReadable s = true → P (acqDone s)) ∧ P (acqStart s))
    (hmicro : ∀ s t, Q s → P s → micro s = .next t → P t) {s t : State} (hq : Q s) (hp : P s) (h : step s = .next t) :
    P t := by
  rcases step_next h with ⟨_, _, rfl⟩ | ⟨_, ⟨_, h⟩ | ⟨_, _, rfl⟩ | ⟨w, ws, hb, _, h⟩⟩
  · exact hreset _
  · exact hmicro _ _ (hostQ _ s.cmdIn _ hq) (hostP _ s.cmdIn _ hp) h
  · exact hostP _ s.cmdIn _ hp
  · have hp' := hostP _ ws (later s.rstIn) hp
    have hq' := hostQ _ ws (later s.rstIn) hq
    rcases accept_effect h with ⟨_, rfl⟩ | ⟨e, h1, h2, rfl⟩ | ⟨_, rfl⟩ | ⟨ha, k, v, h1, h2, rfl⟩ |
      ⟨ha, ⟨_, rfl⟩ | ⟨_, rfl⟩⟩ | ⟨hr, hf, ⟨_, hv, rfl⟩ | ⟨_, rfl⟩⟩
    · exact hrespond _ _ hp'
    · exact hrespond _ _ (hlatch _ _ hb h1 h2 hp')
    · exact hrespond _ _ (hreset _)
    · exact hrespond _ _ (hlds _ _ _ ha h1 h2 hp')
    · exact hrespond _ _ (hgen _ ha hq' hp').1
    · exact (hgen _ ha hq' hp').2
    · exact hrespond _ _ ((hacq _ hr hf hq' hp').1 hv)
    · exact (hacq _ hr hf hq' hp').2

end Sys2Proof.Machine
end

