-- ==== Sys2Proof/Laws/Words.lean ====
section
/-! SUPPORT. The error flag, bit 31 of a response word (30_encoding R103): set in every error response, clear in every data
response. -/

namespace Sys2Proof.Machine

open Sys2Proof

/-- A number below 2^31 has bit 31 clear as a word. -/
theorem flag_clear {n : Nat} (h : n < 2 ^ 31) : (BitVec.ofNat 32 n).getLsbD 31 = false := by
  rw [BitVec.getLsbD, Nat.testBit_eq_decide_div_mod_eq, decide_eq_false_iff_not, BitVec.toNat_ofNat]
  omega

theorem errWord_flag (e : Err) : (errWord e).getLsbD 31 = true := by cases e <;> decide

theorem recordWord_flag (r : Result) {id : Nat} (h : id ≤ 24) : (recordWord r id).getLsbD 31 = false := by
  have h1 : r.offset.toNat < 1024 := r.offset.isLt
  have h2 : statusCode r.status ≤ 2 := by cases r.status <;> simp [statusCode]
  have h3 : bitNat r.bit ≤ 1 := by cases r.bit <;> simp [bitNat]
  exact flag_clear (by omega)

theorem ndet_le (s : State) : ndet s ≤ 24 := by
  have h := List.countP_le_length (p := fun r : Result => decide (r.status = .found)) (l := s.res.cells)
  rwa [s.res.size_eq] at h

theorem statWord_flag (s : State) : (statWord s).getLsbD 31 = false := by
  have h1 : phaseCode s.phase ≤ 5 := by cases s.phase <;> simp [phaseCode]
  have h2 : errCode s.err ≤ 7 := by cases s.err <;> simp [errCode]
  have h3 : bitNat (sfull s) ≤ 1 := by cases sfull s <;> simp [bitNat]
  have h4 := ndet_le s
  exact flag_clear (by omega)

theorem tapWord_flag (p : TapPair) : (tapWord p).getLsbD 31 = false := by
  have h1 := p.a.isLt
  have h2 := p.b.isLt
  exact flag_clear (by omega)

theorem sampleWord_flag (v : BitVec 5) : (sampleWord v).getLsbD 31 = false := by
  revert v
  decide

theorem chipWord_flag (b : Bool) : (chipWord b).getLsbD 31 = false := by cases b <;> decide

theorem bipWord_flag (b : Bipolar) : (bipWord b).getLsbD 31 = false := by cases b <;> decide

end Sys2Proof.Machine
end

