-- ==== Sys2Proof/Tests/Slice0.lean ====
section
/-! SUPPORT. Tests of one step each, their expected values from spec/95_test_vectors, and for every statement with hypotheses a
witness that meets them. -/

namespace Sys2Proof.Tests

open Sys2Proof Sys2Proof.Machine

/-! ### Small states and readers -/

/-- A register value written front first, as 95_test_vectors writes it. -/
def reg (ps : List Nat) : ShiftReg := BitVec.ofNat 10 (ps.foldr (fun p n => p + 2 * n) 0)

/-- The reset state in another phase, its arrays empty. -/
def empty (p : Phase) : State := { State.reset with phase := p }

/-- A state in which every array element holds a value. -/
def filled (p : Phase) (x : BitVec 5) (c : Bool) (b : Bipolar) : State :=
  { State.reset with
    phase := p
    samp := Tab.const 1023 (some x)
    svalid := Tab.const 1023 true
    chip := Tab.const 24 (Tab.const 1023 (some c))
    bip := Tab.const 24 (Tab.const 1023 (some b)) }

/-- FAULT with `E_SEQ` latched. -/
def faulted : State := { empty .fault with err := .seq }

/-- READY after a `GEN` from reset, the registers left out. -/
def generated : State := { empty .ready with chip := genChip Config.tGps, bip := genBip (genChip Config.tGps) }

/-- The generator about to run `m` for element `i` of satellite `k`. -/
def generating (m : MicroOp) (k : Fin 24) (i : Fin 1023) : State :=
  { filled .genRun 0 true .pos with
    mop := some m, ctrS := some k, ctrI := some i, top := some allOnes, bot := some allOnes }

/-- The correlator about to run `m` for satellite `k` at offset `d` and element `j`, with `a` accumulated. -/
def searching (m : MicroOp) (k : Fin 24) (d : BitVec 10) (j : Fin 1023) (a : BitVec 16) : State :=
  { filled .acqRun 1 true .pos with
    mop := some m, ctrS := some k, ctrD := some d, ctrK := some j, acc := some a }

/-- The responses and the status word after a step, if there is a next state. -/
def answerOf : Out → Option (List Word × Word)
  | .next t => some (t.rsp, statWord t)
  | .fault _ => none
  | .refused _ => none

/-- One step with `w` offered: the responses and the status word after it. -/
def run1 (s : State) (w : Nat) : Option (List Word × Word) := answerOf (step (s.withFetchWord 32 w))

/-- The decoder's refusal of a word. -/
def illegalOf (w : Word) : Option Illegal :=
  match decode w with
  | .ok _ => none
  | .error e => some e

/-! ### Well-formedness (30_encoding R106): each check refuses a term -/

theorem test_wf_sat : satFits 31 = true ∧ satFits 32 = false ∧ (Instr.rdr 32).wf = false ∧ (Instr.rdt 32).wf = false := by
  decide

theorem test_wf_index : indexFits 1023 = true ∧ indexFits 1024 = false ∧ (Instr.rds 1024).wf = false ∧
    (Instr.rdc 0 1024).wf = false ∧ (Instr.rdb 32 0).wf = false := by decide

theorem test_wf_val : valFits 15 = true ∧ valFits 16 = false ∧ valFits (-16) = true ∧ valFits (-17) = false ∧
    (Instr.lds 0 16).wf = false ∧ (Instr.lds 0 (-17)).wf = false ∧ (Instr.lds 1024 0).wf = false := by decide

theorem test_wf_accepts_out_of_range : (Instr.lds 1023 12).wf = true ∧ (Instr.rdr 31).wf = true := by decide

/-! ### Decoding and encoding (95 V12, 30_encoding R108) -/

theorem test_decode_nop : decodeTableWord 32 0x00000000 = some .nop := by decide
theorem test_decode_rst : decodeTableWord 32 0x10000000 = some .rst := by decide
theorem test_decode_lds : decodeTableWord 32 0x201F0005 = some (.lds 5 (-1)) ∧
    decodeTableWord 32 0x200C03FF = some (.lds 1023 12) := by decide
theorem test_decode_gen : decodeTableWord 32 0x30000000 = some .gen := by decide
theorem test_decode_acq : decodeTableWord 32 0x40000000 = some .acq := by decide
theorem test_decode_rdstat : decodeTableWord 32 0x50000000 = some .rdstat := by decide
theorem test_decode_rdr : decodeTableWord 32 0x60000017 = some (.rdr 23) := by decide
theorem test_decode_rdc : decodeTableWord 32 0x70005FFE = some (.rdc 23 1022) := by decide
theorem test_decode_rdb : decodeTableWord 32 0x80001411 = some (.rdb 5 17) := by decide
theorem test_decode_rds : decodeTableWord 32 0x900003FE = some (.rds 1022) := by decide
theorem test_decode_rdt : decodeTableWord 32 0xA0000017 = some (.rdt 23) := by decide

theorem test_decode_reserved_bits : ([0x00000001, 0x08000000, 0x0FFFFFFF, 0x10000001, 0x20200000, 0x20000400, 0x20008000,
    0x30000001, 0x40100000, 0x50000100, 0x60000020, 0x70008000, 0x88000000, 0x90000400, 0xA0000100] : List Nat).map
      (fun w => illegalOf (BitVec.ofNat 32 w)) = List.replicate 15 (some .field) := by decide

theorem test_decode_reserved_opcodes : ([0xB0000000, 0xC0000000, 0xD0000000, 0xE0000000, 0xF0000000, 0xF0000001,
    0xFFFFFFFF] : List Nat).map (fun w => illegalOf (BitVec.ofNat 32 w)) = List.replicate 7 (some .opcode) := by decide

theorem test_encode_samples : encode (.lds 0 (-9)) = 0x20170000 ∧ encode (.lds 0 9) = 0x20090000 ∧
    encode (.lds 0 (-16)) = 0x20100000 := by decide

theorem test_assemble_run : assemble .run = some [0x30000000, 0x40000000] ∧
    assemble (.ldv 0 [1, -1]) = some [0x20010000, 0x201F0001] ∧ assemble (.command (.rdr 32)) = none := by decide

/-! ### Parameters (00_scope R9, R12) -/

theorem test_parameters : Config.nChip = 2 ^ Config.lReg - 1 ∧ Config.thrHi = 828 ∧ Config.thrLo = -828 := by decide

/-! ### The generator's steps (95 V1, V4, V5) -/

theorem test_top_step : topNext (reg [0, 0, 0, 0, 0, 0, 0, 0, 0, 1]) = reg [1, 0, 0, 0, 0, 0, 0, 0, 0, 0] ∧
    topNext (reg [1, 0, 1, 0, 1, 0, 1, 0, 1, 0]) = reg [1, 1, 0, 1, 0, 1, 0, 1, 0, 1] := by decide

theorem test_bot_step : botNext (reg [0, 1, 1, 0, 0, 1, 0, 1, 1, 1]) = reg [0, 0, 1, 1, 0, 0, 1, 0, 1, 1] ∧
    botNext (reg [0, 0, 0, 0, 0, 1, 0, 0, 0, 0]) = reg [1, 0, 0, 0, 0, 0, 1, 0, 0, 0] := by decide

theorem test_chip_trace : chipBit ⟨1, 5⟩ (reg [1, 1, 1, 0, 0, 1, 0, 0, 0, 1]) (reg [1, 0, 1, 0, 1, 0, 0, 1, 0, 1]) = true ∧
    chipBit ⟨1, 5⟩ (reg [0, 0, 1, 0, 0, 0, 1, 1, 1, 0]) (reg [0, 1, 0, 0, 1, 0, 1, 1, 0, 1]) = true := by decide

theorem test_first_ten_chips :
    chipRow (Config.tGps.get 0) 10 allOnes allOnes = [true, true, false, false, true, false, false, false, false, false] ∧
    chipRow (Config.tGps.get 22) 10 allOnes allOnes = [true, false, false, false, true, true, false, false, true, true] ∧
    chipRow (Config.tGps.get 23) 10 allOnes allOnes = [true, true, true, true, false, false, false, true, true, false] := by
  decide

/-! ### The correlator's steps (95 V9, V10) -/

theorem test_thresholds : decideAcc 828 = .hit true ∧ decideAcc 827 = .miss ∧
    decideAcc (BitVec.ofInt 16 (-828)) = .hit false ∧ decideAcc (BitVec.ofInt 16 (-827)) = .miss := by decide

theorem test_rotation : rotr [1, 2, 3, 4, 5, 6, 7] = [7, 1, 2, 3, 4, 5, 6] := by decide

theorem test_dot : dot [some 4, some 31, some 0] [some .neg, some .neg, some .pos] = some (-3) ∧
    dot [none] [some .pos] = none := by decide

/-! ### One command each (95 V7, V13, V14, P programs) -/

theorem test_nop : run1 State.reset 0x00000000 = some ([0], 0x00000000) ∧ run1 faulted 0x00000000 = some ([0x80000007], 0x1D) := by
  decide

theorem test_rst : run1 faulted 0x10000000 = some ([0], 0x00000000) ∧ run1 faulted 0x10000001 = some ([0x80000002], 0x1D) := by
  decide

theorem test_lds : run1 State.reset 0x200C03FF = some ([0x80000004], 0x25) ∧ run1 State.reset 0x20160000 = some ([0x80000005], 0x2D) := by
  decide

theorem test_rdstat : run1 (filled .ready 0 false .neg) 0x50000000 = some ([0x82], 0x82) := by decide +kernel

theorem test_acq_errors : run1 State.reset 0x40000000 = some ([0x80000003], 0x1D) ∧
    run1 (empty .ready) 0x40000000 = some ([0x80000006], 0x35) := by decide

theorem test_rdr : run1 { empty .done with res := Tab.const 24 ⟨.found, true, 1006⟩ } 0x60000005 = some ([0xDF75], 0x1804) ∧
    run1 State.reset 0x60000018 = some ([0x80000004], 0x25) := by decide

theorem test_rdc : run1 (filled .ready 0 true .pos) 0x70005FFE = some ([1], 0x82) ∧
    run1 State.reset 0x70007FFF = some ([0x80000003], 0x1D) := by decide +kernel

theorem test_rdb : run1 (filled .done 0 true .neg) 0x80001411 = some ([3], 0x84) ∧
    run1 (empty .ready) 0x80007FFF = some ([0x80000004], 0x25) := by decide +kernel

theorem test_rds : run1 (filled .idle (BitVec.ofInt 5 (-9)) true .neg) 0x900003FE = some ([0x17], 0x80) ∧
    run1 State.reset 0x90000005 = some ([0x80000006], 0x35) := by decide +kernel

theorem test_rdt : run1 State.reset 0xA0000017 = some ([0x53], 0) ∧ run1 State.reset 0xA0000018 = some ([0x80000004], 0x25) := by
  decide

theorem test_illegal_words : run1 State.reset 0xF0000001 = some ([0x80000001], 0x0D) ∧
    run1 State.reset 0x4000FFFF = some ([0x80000002], 0x15) ∧ run1 faulted 0xB0000000 = some ([0x80000007], 0x1D) := by
  decide

/-- 70 R262: the reset input inside a command leaves no response. -/
theorem test_reset_input : answerOf (step { generating .gMap 23 1022 with rstIn := [0] }) = some ([], 0) := by decide

/-- 95 V14: record words. -/
theorem test_record_words : recordWord ⟨.found, true, 1022⟩ 24 = 0x00031FF5 ∧ recordWord ⟨.nosync, false, 0⟩ 24 = 0x00030002 ∧
    recordWord ⟨.found, false, 511⟩ 10 = 0x00014FF9 := by decide

/-! ### Witnesses: for every statement with hypotheses, a state and operands that meet them together -/

theorem witness_decodeOfEncode : (Instr.lds 1023 (-16)).WellFormed ∧ (Instr.lds 0 15).WellFormed ∧
    (Instr.rdc 31 1023).WellFormed ∧ (Instr.rdr 31).WellFormed ∧ Instr.nop.WellFormed := by decide

theorem witness_encodeOfDecode : decode 0x200F03FF#32 = .ok (.lds 1023 15) ∧ decode 0x70007FFF#32 = .ok (.rdc 31 1023) :=
  ⟨rfl, rfl⟩

theorem witness_decodeMatchesOpcodeMap : ⟨0x2, "LDS", 0x20000000#32, 0xFFE0FC00#32⟩ ∈ opcodeRows ∧
    OpcodeRow.encodes ⟨0x2, "LDS", 0x20000000#32, 0xFFE0FC00#32⟩ 0x201F03FF#32 = true ∧
    OpcodeRow.encodes ⟨0x2, "LDS", 0x20000000#32, 0xFFE0FC00#32⟩ 0x20200000#32 = false := by decide

/-- A machine at rest with one word offered and a reset coming two steps later. -/
def offered : State := { empty .idle with cmdIn := [0x201703FE], rstIn := [2] }

theorem witness_stepRunsDecodedCommand : busy offered.phase = false ∧ offered.rstIn.head? ≠ some 0 ∧
    offered.cmdIn = 0x201703FE :: [] ∧ decode 0x201703FE#32 = .ok (.lds 1022 (-9)) := ⟨rfl, by decide, rfl, rfl⟩

theorem witness_portHoldsAndWaits :
    (busy (searching .cDecide 23 1022 1022 828).phase = true ∧ (searching .cDecide 23 1022 1022 828).rstIn.head? ≠ some 0 ∧
      ∃ t, step (searching .cDecide 23 1022 1022 828) = .next t ∧ busy t.phase = false) ∧
    (busy (generating .gTop 0 0).phase = true ∧ (generating .gTop 0 0).rstIn.head? ≠ some 0 ∧
      ∃ t, step (generating .gTop 0 0) = .next t ∧ busy t.phase = true) ∧
    (busy faulted.phase = false ∧ faulted.cmdIn = [] ∧ faulted.rstIn = []) :=
  ⟨⟨rfl, by decide, _, rfl, rfl⟩, ⟨rfl, by decide, _, rfl, rfl⟩, rfl, rfl, rfl⟩

theorem witness_resetInputActsAtOnce : { generating .gMap 23 1022 with rstIn := [0, 5] }.rstIn = 0 :: [5] := rfl

theorem witness_priorityOfErrors :
    (busy faulted.phase = false ∧ firstError 0xF0000001 faulted = some .faulted ∧
      firstError 0x10000001 faulted = some .field) ∧
    (busy State.reset.phase = false ∧ firstError 0xF0000001 State.reset = some .opcode ∧
      firstError 0x7FFFFFFF State.reset = some .field ∧ firstError 0x70007FFF State.reset = some .seq ∧
      firstError 0x40000000 State.reset = some .seq ∧ firstError 0x200C03FF State.reset = some .index ∧
      firstError 0x200A03FE State.reset = some .range ∧ firstError 0x90000005 State.reset = some .uninit ∧
      firstError 0x200903FE State.reset = none) ∧
    (firstError 0x70007FFF (empty .ready) = some .index ∧ firstError 0x40000000 (empty .ready) = some .uninit) := by
  decide

theorem witness_errorEntry : (Err.seq ≠ .none ∧ Err.seq ≠ .faulted) ∧ State.reset.err = .none ∧
    (LatchInv faulted ∧ busy faulted.phase = false ∧ firstError 0x10000001 faulted = some .field ∧ Err.field ≠ .faulted ∧
      faulted.err ≠ .none) := by
  refine ⟨by decide, rfl, ?_, by decide⟩
  simp [LatchInv, faulted, empty]

theorem witness_faultedRefusal : faulted.phase = .fault ∧ bits 0xB0000000#32 31 28 ≠ 0x1 ∧ bits 0xB0000000#32 31 28 ≠ 0x5 ∧
    Instr.acq ≠ .rst ∧ Instr.acq ≠ .rdstat := by decide

theorem witness_illegalWords :
    (busy State.reset.phase = false ∧ 0xB ≤ bits 0xB0000000#32 31 28 ∧ State.reset.phase ≠ .fault) ∧
    (busy faulted.phase = false ∧ 0xB ≤ bits 0xFFFFFFFF#32 31 28 ∧ faulted.phase = .fault) ∧
    (⟨0x1, "RST", 0x10000000#32, 0xFFFFFFFF#32⟩ ∈ opcodeRows ∧ 0x1 = bits 0x10000001#32 31 28 ∧
      OpcodeRow.encodes ⟨0x1, "RST", 0x10000000#32, 0xFFFFFFFF#32⟩ 0x10000001#32 = false) ∧ LatchInv faulted := by
  refine ⟨by decide, by decide, by decide, ?_⟩
  simp [LatchInv, faulted, empty]

theorem witness_phases : Accepting (empty .idle) ∧ Accepting (empty .ready) ∧ Accepting (empty .done) ∧
    TablesReadable (empty .ready) ∧ TablesReadable (empty .done) := by
  simp [Accepting, TablesReadable, empty]

/-- For `NopResponds`, `RdrAndRdtRespond`, `WrongPhaseError` and `IndexOutOfRangeError`. -/
theorem witness_indexOutOfRange : Accepting (empty .idle) ∧ 1022 < 1023 ∧ 23 < 24 ∧ TablesReadable (empty .done) ∧
    (empty .idle).phase = .idle ∧ (empty .done).phase = .done :=
  ⟨witness_phases.1, by decide, by decide, witness_phases.2.2.2.2, rfl, rfl⟩

theorem witness_sampleOutOfRange : (Accepting (empty .idle) ∧ 1022 ≤ 1022 ∧ ((10 : Int) < -9 ∨ 9 < (10 : Int))) ∧
    ((-10 : Int) < -9 ∨ 9 < (-10 : Int)) ∧ 31 < 32 := ⟨⟨witness_phases.1, by decide, by decide⟩, by decide, by decide⟩

theorem witness_unwrittenSample : (empty .ready).svalid.get 1022 = false ∧ (empty .ready).phase = .ready ∧
    Accepting (empty .ready) := ⟨by simp [empty], rfl, witness_phases.2.1⟩

theorem witness_faultLeftOnlyByReset :
    (∃ t, step { faulted with rstIn := [0] } = .next t ∧ faulted.phase = .fault ∧ t.phase ≠ .fault) ∧
    (∃ t, step { faulted with cmdIn := [0x10000000] } = .next t ∧ faulted.err ≠ .none ∧ t.err ≠ faulted.err) :=
  ⟨⟨_, rfl, rfl, by decide⟩, ⟨_, rfl, by decide, by decide⟩⟩

theorem witness_exactlyOneResponse :
    (busy faulted.phase = false ∧ faulted.rstIn = [] ∧ (∃ t, accept 0x50000001 faulted = .next t) ∧
      firstError 0x50000001 faulted = some .field) ∧
    (busy State.reset.phase = false ∧ State.reset.rstIn = [] ∧ (∃ t, accept 0x30000000 State.reset = .next t) ∧
      firstError 0x30000000 State.reset = none ∧ bits 0x30000000#32 31 28 ≤ 0x4) :=
  ⟨⟨rfl, rfl, ⟨_, rfl⟩, by decide⟩, rfl, rfl, ⟨_, rfl⟩, by decide, by decide⟩

theorem generated_inv (ws : List Word) (rs : List Nat) : Inv { generated with cmdIn := ws, rstIn := rs } := by
  refine ⟨?_, ?_, ?_, ?_, ?_, ⟨rfl, rfl⟩⟩
  · simp [LatchInv, generated, empty]
  · simp [SampleInv, generated, empty]
  · show CountersAbsent _
    simp [CountersAbsent, generated, empty]
  · simp [ResultInv, generated, empty, Result.none]
  · simp [LogInv, generated, empty]

/-- For `SafeWhileNoErrorResponse`, `TablesKept` and `NoStepStops`: one safe step and one that is not. -/
theorem witness_inv :
    (Inv { generated with cmdIn := [0] } ∧ Safe { generated with cmdIn := [0] } ∧
      NoErrorResponse { generated with cmdIn := [0] } ∧ ∃ t, step { generated with cmdIn := [0] } = .next t ∧ Safe t) ∧
    (Inv { generated with cmdIn := [0xF0000000] } ∧ ∃ t, step { generated with cmdIn := [0xF0000000] } = .next t ∧ ¬Safe t) :=
  ⟨⟨generated_inv _ _, rfl, by simp [NoErrorResponse, generated, empty], _, rfl, rfl⟩, generated_inv _ _, _, rfl, by
    simp [Safe, latch, generated, empty, illegalErr]⟩

/-- For `NopResponds`, `RdrAndRdtRespond` and `GenFillsTables`' first clause; `GEN` answers. -/
theorem witness_gen : Accepting (empty .done) ∧ (empty .done).rstIn = [] ∧ ∃ t, exec .gen (empty .done) = .next t :=
  ⟨witness_phases.2.2.1, rfl, _, rfl⟩

theorem witness_genFillsTables : Accepting { empty .idle with rstIn := [0] } ∧ { empty .idle with rstIn := [0] }.rstIn ≠ [] :=
  ⟨.inl rfl, by decide⟩

theorem witness_rstResets : busy faulted.phase = false ∧ busy (empty .done).phase = false := by decide

theorem witness_ldsWritesSample : Accepting (empty .idle) ∧ (-9 : Int) ≤ -9 ∧ (-9 : Int) ≤ 9 ∧ (-9 : Int) ≤ 9 ∧ (9 : Int) ≤ 9 ∧
    (1021 : Fin 1023) ≠ 1022 := ⟨witness_phases.1, by decide, by decide, by decide, by decide, by decide⟩

theorem witness_rdstat : busy (filled .done 0 true .pos).phase = false ∧
    (∀ i, (filled .done 0 true .pos).svalid.get i = true) ∧ (empty .idle).svalid.get 1022 = false := by
  refine ⟨rfl, fun i => ?_, ?_⟩ <;> simp [filled, empty]

theorem witness_recordFields : 24 ≤ 24 := by decide

theorem witness_rdcAndRdb : TablesReadable (filled .done 0 true .neg) ∧ read2 (filled .done 0 true .neg).chip 23 1022 = some true ∧
    read2 (filled .done 0 true .neg).bip 23 1022 = some .neg ∧ TablesReadable (filled .ready 0 false .pos) ∧
    read2 (filled .ready 0 false .pos).chip 0 0 = some false ∧ read2 (filled .ready 0 false .pos).bip 0 0 = some .pos := by
  simp [TablesReadable, filled]

theorem witness_rds : Accepting (filled .done 9 true .pos) ∧ (filled .done 9 true .pos).svalid.get 1022 = true ∧
    (filled .done 9 true .pos).samp.get 1022 = some 9 := by simp [Accepting, filled]

theorem witness_chipClosedForm : 9 < 10 ∧ Accepting (empty .done) ∧ ∃ t, exec .gen (empty .done) = .next t ∧ ∃ c,
    read2 t.chip 23 1022 = some c := ⟨by decide, witness_gen.1, _, rfl, _, genChip_read _ _ _⟩

theorem witness_registerPeriod : (topNext = topNext ∨ topNext = botNext) ∧ 0 < 1022 ∧ 1022 < 1023 ∧ (1 : ShiftReg) ≠ 0 :=
  ⟨.inl rfl, by decide, by decide, by decide⟩

/-- A window of equal samples over constant rows. -/
theorem filled_window (x : BitVec 5) (c : Bool) (b : Bipolar) (h1 : -9 ≤ sampleInt x) (h2 : sampleInt x ≤ 9) :
    Window (filled .ready x c b) (fun _ => x) (fun _ _ => b) := by
  refine ⟨rfl, fun i => ?_, fun i => ?_, fun _ => ⟨h1, h2⟩, fun k i => ?_⟩ <;> simp [filled]

/-- A full window makes `ACQ` run, or start where a reset is coming. -/
theorem filled_acq (x : BitVec 5) (c : Bool) (b : Bipolar) (rs : List Nat) :
    exec .acq { filled .ready x c b with rstIn := rs } =
      if rs = [] then .next (respond 0 (acqDone { filled .ready x c b with rstIn := rs }))
      else .next (acqStart { filled .ready x c b with rstIn := rs }) :=
  execAcq_run rfl ((sfull_iff _).mpr fun i => by simp [filled])
    ((acqReadable_iff _).mpr ⟨fun i => by simp [filled], fun k i => by simp [filled]⟩)

theorem filled_acq_done (x : BitVec 5) (c : Bool) (b : Bipolar) :
    ∃ t, exec .acq (filled .ready x c b) = .next t ∧ t.phase = .done := by
  have h := filled_acq x c b []
  rw [if_pos rfl] at h
  exact ⟨_, h, by simp⟩

/-- Degenerate tap tables: a pair of equal positions, and two satellites with the same pair swapped. -/
theorem witness_degenerateTapPairs :
    (((Config.tGps.set 0 ⟨9, 9⟩).get 0).a = ((Config.tGps.set 0 ⟨9, 9⟩).get 0).b) ∧
    (((Config.tGps.set 1 ⟨5, 1⟩).get 1).a = ((Config.tGps.set 1 ⟨5, 1⟩).get 0).b ∧
      ((Config.tGps.set 1 ⟨5, 1⟩).get 1).b = ((Config.tGps.set 1 ⟨5, 1⟩).get 0).a) ∧
    (Accepting (empty .done) ∧ (empty .done).rstIn = [] ∧ ∃ t, exec .gen (empty .done) = .next t) ∧
    ((filled .ready 1 true .pos).phase = .ready ∧ (filled .ready 1 true .pos).rstIn = [] ∧
      (∃ t, exec .acq (filled .ready 1 true .pos) = .next t ∧ t.phase = .done) ∧
      ∀ i, read2 (filled .ready 1 true .pos).bip 0 i = read2 (filled .ready 1 true .pos).bip 23 i) := by
  refine ⟨by decide, by decide, witness_gen, rfl, rfl, filled_acq_done _ _ _, fun i => ?_⟩
  simp [filled]

theorem product_const (x : BitVec 5) (b : Bipolar) (d : Nat) :
    product (fun _ => x) (fun _ => b) d = 1023 * (sampleInt x * bipolarInt b) := by
  simp [product, dotSum]

/-- For the statements about `ACQ` on a window: a crossing at offset 0, upper and lower, and none at all. -/
theorem witness_acqReportsFirstCrossing :
    (Window (filled .ready 1 true .pos) (fun _ => 1) (fun _ _ => .pos) ∧ (filled .ready 1 true .pos).rstIn = [] ∧
      FirstCrossing (product (fun _ => 1) fun _ => .pos) 0) ∧
    (Window (filled .ready 1 true .neg) (fun _ => 1) (fun _ _ => .neg) ∧
      FirstCrossing (product (fun _ => 1) fun _ => .neg) 0) ∧
    (Window (filled .ready 0 true .pos) (fun _ => 0) (fun _ _ => .pos) ∧
      ∀ d, d < 1023 → ¬Crosses (product (fun _ => 0) (fun _ => .pos) d)) ∧
    (Window { filled .ready 1 true .pos with rstIn := [0] } (fun _ => 1) (fun _ _ => .pos) ∧
      { filled .ready 1 true .pos with rstIn := [0] }.rstIn ≠ []) := by
  have h1 : sampleInt 1 = 1 := by decide
  have h0 : sampleInt 0 = 0 := by decide
  refine ⟨⟨filled_window 1 _ _ (by decide) (by decide), rfl, by decide, ?_, by simp⟩,
    ⟨filled_window 1 _ _ (by decide) (by decide), by decide, ?_, by simp⟩,
    ⟨filled_window 0 _ _ (by decide) (by decide), fun d _ => ?_⟩,
    filled_window 1 true .pos (by decide) (by decide), by decide⟩
  · rw [product_const, h1]
    simp [Crosses, bipolarInt]
  · rw [product_const, h1]
    simp [Crosses, bipolarInt]
  · rw [product_const, h0]
    simp [Crosses]

/-- For `AcqRotatesRows`, `DetectionsInOrder`, `AccumulatorIsExact`, `AcqReadsSamplesAndRowsOnly` and `AcqFrame`. -/
theorem witness_acq :
    Window (filled .ready 1 true .pos) (fun _ => 1) (fun _ _ => .pos) ∧ (filled .ready 1 true .pos).rstIn = [] ∧
    (filled .ready 1 true .pos).phase = .ready ∧ ∃ t, exec .acq (filled .ready 1 true .pos) = .next t ∧ t.phase = .done :=
  ⟨filled_window 1 _ _ (by decide) (by decide), rfl, rfl, filled_acq_done _ _ _⟩

/-- Two states that agree on the samples and the rows and on little else. -/
theorem witness_acqReadsSamplesAndRowsOnly :
    (∀ i, (filled .ready 1 true .pos).samp.get i = (filled .ready 1 false .pos).samp.get i) ∧
    (∀ k i, read2 (filled .ready 1 true .pos).bip k i = read2 (filled .ready 1 false .pos).bip k i) ∧
    ∃ t, exec .acq (filled .ready 1 false .pos) = .next t ∧ t.phase = .done := by
  refine ⟨fun i => ?_, fun k i => ?_, filled_acq_done _ _ _⟩ <;> simp [filled]

theorem dot_constant (n : Nat) (x : BitVec 5) (b : Bipolar) :
    dot (List.replicate n (some x)) (List.replicate n (some b)) = some (n * (sampleInt x * bipolarInt b)) := by
  induction n with
  | zero => simp [dot]
  | succ n ih =>
    rw [List.replicate_succ, List.replicate_succ, dot_cons, ih, Option.map_some, Nat.cast_succ]
    congr 1
    ring

/-- With equal samples over a constant row every product is the same. -/
theorem constant_acc (k : Fin 24) (x : BitVec 5) (b : Bipolar) (s : State) (hx : s.samp = Tab.const 1023 (some x))
    (hb : s.bip.get k = Tab.const 1023 (some b)) :
    (cDot k s).acc = some (BitVec.ofInt 16 (1023 * (sampleInt x * bipolarInt b))) := by
  simp only [cDot, hx, hb, Tab.const, dot_constant, Option.map_some]
  rfl

theorem constant_rotr (b : Bipolar) : rotrTab (Tab.const 1023 (some b)) = Tab.const 1023 (some b) :=
  Tab.ext_get fun i => by
    rw [rotrTab_get]
    split <;> simp

theorem constant_misses (k : Fin 24) (fuel d : Nat) (s : State) (hx : s.samp = Tab.const 1023 (some 0))
    (hb : s.bip.get k = Tab.const 1023 (some .pos)) : (search k fuel d s).res.get k = Result.nosync := by
  induction fuel generalizing d s with
  | zero => simp [search]
  | succ fuel ih =>
    have hm : decideReg (cDot k s).acc = .miss := by
      rw [constant_acc k 0 .pos s hx hb]
      decide
    simp only [search, hm]
    refine ih (d + 1) _ (by simpa using hx) ?_
    simp [hb, constant_rotr]

/-- A satellite found at offset 0, and one not found, for `AcqRotatesRows`. -/
theorem witness_acqRotatesRows : ((acqDone (filled .ready 1 true .pos)).res.get 0).status = .found ∧
    ((acqDone (filled .ready 0 true .pos)).res.get 0).status = .nosync := by
  have hf : List.finRange 24 = 0 :: (List.finRange 23).map Fin.succ := List.finRange_succ
  have hn : (0 : Fin 24) ∉ (List.finRange 23).map Fin.succ := by simp [Fin.succ_ne_zero]
  have hr : ∀ s, (acqDone s).res.get 0 = (searchSat 0 (clearResults s)).res.get 0 := fun s => by
    rw [acqDone_res, hf, searchAll_cons, (searchAll_other _ 0 hn _).2]
  constructor
  · have hh : decideReg (cDot 0 (clearResults (filled .ready 1 true .pos))).acc = .hit true := by
      rw [constant_acc 0 1 .pos _ rfl (by simp [filled])]
      decide
    rw [hr, searchSat, search, hh]
    simp
  · rw [hr, searchSat, constant_misses 0 1023 0 _ rfl (by simp [filled])]
    rfl

theorem witness_allZeroDetectsNothing : Window (filled .ready 0 true .pos) (fun _ => 0) (fun _ _ => .pos) ∧
    (filled .ready 0 true .pos).rstIn = [] ∧ ∀ _ : Fin 1023, sampleInt 0 = 0 :=
  ⟨filled_window 0 _ _ (by decide) (by decide), rfl, fun _ => by decide⟩

theorem witness_alignedSatelliteIsDetected :
    Window (filled .ready 1 true .pos) (fun _ => 1) (fun _ _ => .pos) ∧ (filled .ready 1 true .pos).rstIn = [] ∧ 1022 < 1023 ∧
    (∀ _ : Fin 1023, sampleInt 1 = 1 * bipolarInt .pos) ∧ (∀ _ : Fin 1023, sampleInt 1 = -1 * bipolarInt .neg) ∧
    Window (filled .ready 1 true .neg) (fun _ => 1) (fun _ _ => .neg) ∧
    ∃ t, exec .acq (filled .ready 1 true .neg) = .next t :=
  ⟨filled_window 1 _ _ (by decide) (by decide), rfl, by decide, fun _ => by decide, fun _ => by decide,
    filled_window 1 _ _ (by decide) (by decide), (filled_acq_done _ _ _).imp fun _ h => h.1⟩

theorem witness_micro_generator :
    ((generating .gInit 0 0).phase = .genRun ∧ (generating .gInit 0 0).mop = some .gInit) ∧
    ((generating .gChip 23 1022).mop = some .gChip ∧ (generating .gChip 23 1022).ctrS = some 23 ∧
      (generating .gChip 23 1022).ctrI = some 1022 ∧ (generating .gChip 23 1022).top = some allOnes ∧
      (generating .gChip 23 1022).bot = some allOnes) ∧
    ((generating .gTop 0 0).mop = some .gTop ∧ (generating .gBot 0 0).mop = some .gBot) ∧
    (chipStep 23 1022 = 24552 - 1 ∧ chipStep 23 1021 < 24552 - 1 ∧ chipStep 0 1022 < 24552 - 1) := by
  refine ⟨⟨rfl, rfl⟩, ⟨rfl, rfl, rfl, rfl, rfl⟩, ⟨rfl, rfl⟩, by decide⟩

theorem witness_microMapAndLoops : (generating .gMap 23 1022).mop = some .gMap ∧
    read2 (generating .gMap 23 1022).chip 23 1022 = some true ∧ (generating .gBot 0 1022).mop = some .gBot ∧
    (generating .gBot 0 1022).bot = some allOnes := by
  refine ⟨rfl, ?_, rfl, rfl⟩
  simp [generating, filled]

theorem witness_microClearAndAccumulate :
    ((searching .cClr 0 0 0 0).phase = .acqRun ∧ (searching .cClr 0 0 0 0).mop = some .cClr) ∧
    ((searching .cMac 23 0 1022 827).mop = some .cMac ∧ (searching .cMac 23 0 1022 827).ctrS = some 23 ∧
      (searching .cMac 23 0 1022 827).ctrK = some 1022 ∧ (searching .cMac 23 0 1022 827).acc = some 827 ∧
      (searching .cMac 23 0 1022 827).samp.get 1022 = some 1 ∧
      read2 (searching .cMac 23 0 1022 827).bip 23 1022 = some .pos) ∧
    (-32768 ≤ (827 : BitVec 16).toInt + sampleInt 1 * 1 ∧ (827 : BitVec 16).toInt + sampleInt 1 * 1 < 32768) ∧
    ((1021 : Fin 1023).val < 1022 ∧ (1022 : Fin 1023).val = 1022) := by
  refine ⟨⟨rfl, rfl⟩, ⟨rfl, rfl, rfl, rfl, ?_, ?_⟩, by decide, by decide⟩ <;> simp [searching, filled]

theorem witness_microDecide :
    ((searching .cDecide 23 0 0 828).phase = .acqRun ∧ (searching .cDecide 23 0 0 828).mop = some .cDecide ∧
      (searching .cDecide 23 0 0 828).ctrS = some 23 ∧ (searching .cDecide 23 0 0 828).ctrD = some 0 ∧
      (searching .cDecide 23 0 0 828).acc = some 828) ∧
    828 ≤ (828 : BitVec 16).toInt ∧ (BitVec.ofInt 16 (-828)).toInt ≤ -828 ∧
    (-828 < (827 : BitVec 16).toInt ∧ (827 : BitVec 16).toInt < 828) ∧
    (-828 < (BitVec.ofInt 16 (-827)).toInt ∧ (BitVec.ofInt 16 (-827)).toInt < 828) ∧
    (23 : Fin 24).val = (22 : Fin 24).val + 1 := ⟨⟨rfl, rfl, rfl, rfl, rfl⟩, by decide⟩

theorem witness_microRotate : ((searching .cRot 5 1022 0 0).phase = .acqRun ∧ (searching .cRot 5 1022 0 0).mop = some .cRot ∧
      (searching .cRot 5 1022 0 0).ctrS = some 5 ∧ (searching .cRot 5 1022 0 0).ctrD = some 1022) ∧
    (1022 : BitVec 10).toNat = 1022 ∧ (1021 : BitVec 10).toNat < 1022 ∧ (1022 : Fin 1023).val = (1021 : Fin 1023).val + 1 ∧
    (4 : Fin 24) ≠ 5 := ⟨⟨rfl, rfl, rfl, rfl⟩, by decide⟩

theorem witness_genRunsMicroOps : (∀ n rest, { empty .idle with rstIn := [98209] }.rstIn = n :: rest → 98209 ≤ n) ∧
    Accepting (empty .idle) ∧ (empty .idle).rstIn = [] :=
  ⟨fun _ _ h => Nat.le_of_eq (List.cons.inj h).1, witness_phases.1, rfl⟩

theorem witness_acqRunsMicroOps : Window (filled .ready 1 true .pos) (fun _ => 1) (fun _ _ => .pos) ∧
    (∀ n rest, (filled .ready 1 true .pos).rstIn = n :: rest → 24 * 1023 * 1026 ≤ n) ∧ (filled .ready 1 true .pos).rstIn = [] :=
  ⟨witness_acq.1, fun _ _ h => absurd h (by simp [filled]), rfl⟩

theorem witness_readsFrame : ∃ t1 t2 t3 t4 t5 t6 t7, exec .nop faulted = .next t1 ∧ exec .rdstat faulted = .next t2 ∧
    exec (.rdr 24) (empty .idle) = .next t3 ∧ exec (.rdc 23 1022) (empty .idle) = .next t4 ∧
    exec (.rdb 23 1022) (empty .idle) = .next t5 ∧ exec (.rds 1023) (empty .idle) = .next t6 ∧
    exec (.rdt 23) (empty .idle) = .next t7 :=
  ⟨_, _, _, _, _, _, _, rfl, rfl, rfl, rfl, rfl, rfl, rfl⟩

theorem witness_ldsFrame : (∃ t, exec (.lds 1022 9) (empty .idle) = .next t) ∧
    (∃ t, exec (.lds 1023 9) (empty .idle) = .next t ∧ t.phase = .fault) ∧
    (∃ t, exec (.lds 1022 10) (empty .idle) = .next t ∧ t.phase = .fault) ∧ (0 : Fin 1023).val ≠ 1022 :=
  ⟨⟨_, rfl⟩, ⟨_, rfl, rfl⟩, ⟨_, rfl, rfl⟩, by decide⟩

theorem witness_acqFrame : (∃ t, exec .acq (filled .ready 1 true .pos) = .next t ∧ t.phase ≠ .fault) ∧
    ∃ t, exec .acq (empty .idle) = .next t ∧ t.phase = .fault :=
  ⟨(filled_acq_done 1 true .pos).imp fun _ h => ⟨h.1, by simp [h.2]⟩, _, rfl, rfl⟩

theorem filled_step_acq : ∃ t, step { filled .ready 1 true .pos with cmdIn := [0x40000000], rstIn := [1] } = .next t ∧
    t.phase = .acqRun := by
  have hd : decode 0x40000000#32 = .ok .acq := rfl
  have h := filled_acq 1 true .pos [0]
  rw [if_neg (by simp)] at h
  refine ⟨acqStart { filled .ready 1 true .pos with rstIn := [0] }, ?_, acqStart_phase _⟩
  rw [← h]
  simp [step, tick, filled, busy, accept, hd]

theorem witness_generationBeforeCorrelation :
    (∃ t, step { filled .ready 1 true .pos with cmdIn := [0x40000000], rstIn := [1] } = .next t ∧ t.phase = .acqRun) ∧
    (∃ t, step (searching .cClr 0 0 0 0) = .next t ∧ t.phase = .acqRun) ∧
    (∃ t, step (searching .cDecide 23 0 0 828) = .next t ∧ t.phase = .done) ∧
    (∃ t, step { generating .gBot 0 0 with rstIn := [0] } = .next t ∧ t.phase = .idle) :=
  ⟨filled_step_acq, ⟨_, rfl, rfl⟩, ⟨_, rfl, rfl⟩, _, rfl, rfl⟩

/-- For `LatchKept`, `SamplesKept`, `PositionKept`, `ResultsKept` and `TapNeverWritten`, at rest and in a search. -/
theorem witness_invariants_kept :
    (LatchInv faulted ∧ PositionInv faulted ∧ ∃ t, step faulted = .next t) ∧
    (SampleInv (searching .cRot 0 1022 0 0) ∧ PositionInv (searching .cRot 0 1022 0 0) ∧
      ResultInv (searching .cRot 0 1022 0 0) ∧ LogInv (searching .cRot 0 1022 0 0) ∧
      ∃ t, step (searching .cRot 0 1022 0 0) = .next t) := by
  refine ⟨⟨?_, ?_, _, rfl⟩, ?_, ?_, ?_, ?_, _, rfl⟩
  · simp [LatchInv, faulted, empty]
  · show CountersAbsent _
    simp [CountersAbsent, faulted, empty]
  · refine ⟨fun i => ?_, fun i _ => ⟨1, ?_, by decide, by decide⟩, fun _ => (sfull_iff _).mpr fun i => ?_⟩ <;>
      simp [searching, filled]
  · exact ⟨rfl, ⟨_, rfl⟩, ⟨_, rfl, by decide⟩, .inr (.inr (.inr rfl))⟩
  · refine ⟨?_, ?_, ?_, fun _ k l hk hl => absurd hl ?_⟩
    all_goals simp [searching, filled, Result.none]
    cases hk
    exact Fin.zero_le l
  · simp [LogInv, searching, filled]

end Sys2Proof.Tests
end

section
/-! What one micro-operation answers where everything it reads holds a value, and runs of the sequencer that no reset
cuts short. -/

namespace Sys2Proof.Machine

open Sys2Proof

/-! ### One micro-operation -/

theorem micro_gInit {s : State} (hp : s.phase = .genRun) (hm : s.mop = some .gInit) :
    micro s = .next { s with
      top := some allOnes, bot := some allOnes, ctrS := some 0, ctrI := some 0, mop := some .gChip } := by
  simp only [micro, hp, hm, genMicro, microGInit]

theorem micro_gChip {s : State} {k : Fin 24} {i : Fin 1023} {x y : ShiftReg} (hp : s.phase = .genRun)
    (hm : s.mop = some .gChip) (hk : s.ctrS = some k) (hi : s.ctrI = some i) (hx : s.top = some x) (hy : s.bot = some y) :
    micro s = .next { s with
      chip := write2 s.chip k i (some (chipBit (s.tap.get k) x y)), mop := some .gTop } := by
  simp only [micro, hp, hm, genMicro, microGChip, hk, hi, hx, hy, withValue_some]

theorem micro_gTop {s : State} {x : ShiftReg} (hp : s.phase = .genRun) (hm : s.mop = some .gTop) (hx : s.top = some x) :
    micro s = .next { s with top := some (topNext x), mop := some .gBot } := by
  simp only [micro, hp, hm, genMicro, microGTop, hx, withValue_some]

theorem micro_gBot {s : State} {k : Fin 24} {i : Fin 1023} {y : ShiftReg} (hp : s.phase = .genRun)
    (hm : s.mop = some .gBot) (hk : s.ctrS = some k) (hi : s.ctrI = some i) (hy : s.bot = some y) :
    micro s = .next (afterChip k i { s with bot := some (botNext y) }) := by
  simp only [micro, hp, hm, genMicro, microGBot, hk, hi, hy, withValue_some]

theorem micro_gMap {s : State} {k : Fin 24} {i : Fin 1023} {c : Bool} (hp : s.phase = .genRun)
    (hm : s.mop = some .gMap) (hk : s.ctrS = some k) (hi : s.ctrI = some i) (hc : read2 s.chip k i = some c) :
    micro s = .next (afterMap k i { s with bip := write2 s.bip k i (some (bip c)) }) := by
  simp only [micro, hp, hm, genMicro, microGMap, hk, hi, hc, withValue_some]

theorem micro_cClr {s : State} (hp : s.phase = .acqRun) (hm : s.mop = some .cClr) :
    micro s = .next { s with acc := some 0, ctrK := some 0, mop := some .cMac } := by
  simp only [micro, hp, hm, acqMicro, microCClr]

theorem micro_cMac {s : State} {k : Fin 24} {j : Fin 1023} {a : BitVec 16} {x : BitVec 5} {c : Bipolar}
    (hp : s.phase = .acqRun) (hm : s.mop = some .cMac) (hk : s.ctrS = some k) (hj : s.ctrK = some j)
    (ha : s.acc = some a) (hx : s.samp.get j = some x) (hc : read2 s.bip k j = some c) :
    micro s = .next (afterMac j { s with acc := some (a + BitVec.ofInt 16 (sampleInt x * bipolarInt c)) }) := by
  simp only [micro, hp, hm, acqMicro, microCMac, hk, hj, ha, hx, hc, withValue_some]

theorem micro_cDecide_hit {s : State} {k : Fin 24} {d : BitVec 10} {a : BitVec 16} {bit : Bool}
    (hp : s.phase = .acqRun) (hm : s.mop = some .cDecide) (hk : s.ctrS = some k) (hd : s.ctrD = some d)
    (ha : s.acc = some a) (hit : decideAcc a = .hit bit) : micro s = .next (afterSearch k (emitFound k bit d s)) := by
  simp only [micro, hp, hm, acqMicro, microCDecide, hk, hd, ha, hit, withValue_some]

theorem micro_cDecide_miss {s : State} {k : Fin 24} {d : BitVec 10} {a : BitVec 16} (hp : s.phase = .acqRun)
    (hm : s.mop = some .cDecide) (hk : s.ctrS = some k) (hd : s.ctrD = some d) (ha : s.acc = some a)
    (miss : decideAcc a = .miss) : micro s = .next { s with mop := some .cRot } := by
  simp only [micro, hp, hm, acqMicro, microCDecide, hk, hd, ha, miss, withValue_some]

theorem micro_cRot {s : State} {k : Fin 24} {d : BitVec 10} (hp : s.phase = .acqRun) (hm : s.mop = some .cRot)
    (hk : s.ctrS = some k) (hd : s.ctrD = some d) : micro s = .next (afterRot k d (cRot k s)) := by
  simp only [micro, hp, hm, acqMicro, microCRot, hk, hd, withValue_some]

/-! ### The reset schedule, which no micro-operation looks at -/

theorem afterChip_rstIn (k : Fin 24) (i : Fin 1023) (s : State) (r : List Nat) :
    afterChip k i { s with rstIn := r } = { afterChip k i s with rstIn := r } := by
  unfold afterChip
  split <;> rfl

theorem afterMap_rstIn (k : Fin 24) (i : Fin 1023) (s : State) (r : List Nat) :
    afterMap k i { s with rstIn := r } = { afterMap k i s with rstIn := r } := by
  unfold afterMap
  split <;> rfl

theorem afterMac_rstIn (j : Fin 1023) (s : State) (r : List Nat) :
    afterMac j { s with rstIn := r } = { afterMac j s with rstIn := r } := by
  unfold afterMac
  split <;> rfl

theorem afterSearch_rstIn (k : Fin 24) (s : State) (r : List Nat) :
    afterSearch k { s with rstIn := r } = { afterSearch k s with rstIn := r } := by
  unfold afterSearch
  split <;> rfl

theorem afterRot_rstIn (k : Fin 24) (d : BitVec 10) (s : State) (r : List Nat) :
    afterRot k d { s with rstIn := r } = { afterRot k d s with rstIn := r } := by
  unfold afterRot
  split
  · exact afterSearch_rstIn k (markNosync k { s with ctrD := some (d + 1) }) r
  · rfl

/-- A micro-operation neither reads nor changes the reset schedule. -/
theorem micro_rstIn {s t : State} (h : micro s = .next t) (r : List Nat) :
    micro { s with rstIn := r } = .next { t with rstIn := r } := by
  rcases micro_cases h with ⟨hp, h⟩ | ⟨hp, h⟩
  · rcases h with ⟨hm, rfl⟩ | ⟨hm, k, i, x, y, hk, hi, hx, hy, rfl⟩ | ⟨hm, x, hx, rfl⟩ |
      ⟨hm, k, i, y, hk, hi, hy, rfl⟩ |
      ⟨hm, k, i, c, hk, hi, hc, rfl⟩
    · exact micro_gInit hp hm
    · exact micro_gChip hp hm hk hi hx hy
    · exact micro_gTop hp hm hx
    · rw [← afterChip_rstIn]
      exact micro_gBot hp hm hk hi hy
    · rw [← afterMap_rstIn]
      exact micro_gMap hp hm hk hi hc
  · rcases h with ⟨hm, rfl⟩ | ⟨hm, k, j, a, x, c, hk, hj, ha, hx, hc, rfl⟩ |
      ⟨hm, k, d, a, hk, hd, ha, ⟨bit, hit, rfl⟩ | ⟨miss, rfl⟩⟩ | ⟨hm, k, d, hk, hd, rfl⟩
    · exact micro_cClr hp hm
    · rw [← afterMac_rstIn]
      exact micro_cMac hp hm hk hj ha hx hc
    · rw [← afterSearch_rstIn]
      exact micro_cDecide_hit hp hm hk hd ha hit
    · exact micro_cDecide_miss hp hm hk hd ha miss
    · rw [← afterRot_rstIn]
      exact micro_cRot hp hm hk hd

/-! ### Runs -/

theorem run_succ {M : Host.Core} {s t : M.State} (h : M.step s = .next t) (n : Nat) : M.run (n + 1) s = M.run n t := by
  simp only [Host.Core.run, h]

/-- A run that does not stop begins with a step that does not. -/
theorem step_of_run_succ {M : Host.Core} {n : Nat} {s t : M.State} (h : M.run (n + 1) s = .next t) :
    ∃ u, M.step s = .next u := by
  cases hu : M.step s with
  | next u => exact ⟨u, rfl⟩
  | fault r =>
    simp only [Host.Core.run, hu] at h
    cases h
  | refused r =>
    simp only [Host.Core.run, hu] at h
    cases h

theorem run_add {M : Host.Core} {m n : Nat} {s t : M.State} (h : M.run m s = .next t) : M.run (m + n) s = M.run n t := by
  induction m generalizing s with
  | zero =>
    cases h
    rw [Nat.zero_add]
  | succ m ih =>
    obtain ⟨u, hu⟩ := step_of_run_succ h
    rw [run_succ hu] at h
    rw [Nat.add_right_comm, run_succ hu, ih h]

theorem laterBy_one (r : List Nat) : laterBy 1 r = later r := by cases r <;> rfl

theorem laterBy_add (m n : Nat) (r : List Nat) : laterBy (m + n) r = laterBy n (laterBy m r) := by
  cases r with
  | nil => rfl
  | cons l rest => simp only [laterBy, Nat.sub_sub]

/-- No reset is due in the next `n` steps. -/
def QuietFor (n : Nat) (r : List Nat) : Prop := ∀ m rest, r = m :: rest → n ≤ m

theorem QuietFor.mono {m n : Nat} {r : List Nat} (h : QuietFor n r) (hmn : m ≤ n) : QuietFor m r :=
  fun l rest hr => hmn.trans (h l rest hr)

/-- A schedule quiet for `m + n` steps is quiet for `n` steps after `m` of them. -/
theorem QuietFor.after {m n : Nat} {r : List Nat} (h : QuietFor (m + n) r) : QuietFor n (laterBy m r) := by
  cases r with
  | nil => intro l rest hr; cases hr
  | cons l rest =>
    intro l' rest' hr
    cases hr
    have := h l rest rfl
    omega

theorem QuietFor.head_ne_zero {r : List Nat} (h : QuietFor 1 r) : r.head? ≠ some 0 := by
  cases r with
  | nil => simp
  | cons l rest =>
    have := h l rest rfl
    simp only [List.head?_cons, ne_eq, Option.some.injEq]
    omega

/-- `n` steps lead from `s` to `t` under every reset schedule with no reset due in them; the schedules `s` and `t`
themselves carry play no part. -/
def Runs (n : Nat) (s t : State) : Prop :=
  ∀ r, QuietFor n r → Host.Core.run core n { s with rstIn := r } = .next { t with rstIn := laterBy n r }

theorem Runs.trans {m n : Nat} {s t u : State} (hst : Runs m s t) (htu : Runs n t u) : Runs (m + n) s u := fun r hr => by
  rw [run_add (hst r (hr.mono (Nat.le_add_right m n))), laterBy_add]
  exact htu _ hr.after

/-- While a command executes, one step is the sequencer's next micro-operation (70 R267). -/
theorem Runs.of_micro {s t : State} (h : micro s = .next t) : Runs 1 s t := fun r hr => by
  have hb : busy s.phase = true := by
    rcases micro_cases h with ⟨hp, -⟩ | ⟨hp, -⟩ <;> rw [hp] <;> rfl
  have hstep : step { s with rstIn := r } = .next { t with rstIn := later r } := by
    rw [step_noReset hr.head_ne_zero, tick, if_pos hb]
    exact micro_rstIn h (later r)
  rw [run_succ (M := core) hstep, laterBy_one]
  rfl

/-- At most `n` steps lead from `s` to `t`. -/
def RunsWithin (n : Nat) (s t : State) : Prop := ∃ m, m ≤ n ∧ Runs m s t

theorem Runs.within {m n : Nat} {s t : State} (h : Runs m s t) (hmn : m ≤ n) : RunsWithin n s t := ⟨m, hmn, h⟩

theorem RunsWithin.trans {m n : Nat} {s t u : State} (hst : RunsWithin m s t) (htu : RunsWithin n t u) :
    RunsWithin (m + n) s u := by
  obtain ⟨m', hm, hst⟩ := hst
  obtain ⟨n', hn, htu⟩ := htu
  exact ⟨m' + n', Nat.add_le_add hm hn, hst.trans htu⟩

end Sys2Proof.Machine
end

section
/-! The micro-operations of `GEN`, one loop after the other, and the run they make (40_generator R136). -/

namespace Sys2Proof.Machine

open Sys2Proof

/-! ### Tables written element by element -/

/-- `a` and `g` agree on the first `n` elements in the order of the loops; `ChipsTo` and `BipsTo` are of this form. -/
def AgreeTo {α : Type} (n : Nat) (a g : Tab (Tab α 1023) 24) : Prop :=
  ∀ l j, chipStep l j < n → read2 a l j = read2 g l j

theorem AgreeTo.first {α : Type} (a g : Tab (Tab α 1023) 24) : AgreeTo (chipStep 0 0) a g :=
  fun _ _ h => absurd h (Nat.not_lt_zero _)

theorem AgreeTo.eq {α : Type} {a g : Tab (Tab α 1023) 24} (h : AgreeTo 24552 a g) : a = g :=
  ext_read2 fun l j => h l j (chipStep_lt l j)

/-- Writing the next element. -/
theorem AgreeTo.write_next {α : Type} {a g : Tab (Tab α 1023) 24} {k : Fin 24} {i : Fin 1023}
    (h : AgreeTo (chipStep k i) a g) : AgreeTo (chipStep k i + 1) (write2 a k i (read2 g k i)) g := by
  intro l j hj
  rw [read2_write2]
  split
  · rename_i e
    rw [e.1, e.2]
  · rename_i e
    have hne : chipStep l j ≠ chipStep k i := fun hs => e ((chipStep_inj.mp hs).imp Eq.symm Eq.symm)
    exact h l j (by omega)

/-! ### A loop over all satellites and elements -/

theorem chipStep_of_succPos {k l : Fin 24} {i j : Fin 1023} (h : succPos k i = some (l, j)) :
    chipStep l j = chipStep k i + 1 := succPos_some h

theorem chipStep_of_succPos_none {k : Fin 24} {i : Fin 1023} (h : succPos k i = none) : chipStep k i + 1 = 24552 := by
  obtain ⟨hk, hi⟩ := succPos_none h
  rw [chipStep, hk, hi]

/-- A loop of 40_generator R136 from `(k, i)`, `c` steps an element: `At k i` holds before the element `(k, i)`, and the
last element leads to `u`. -/
theorem runs_loop {c : Nat} {At : Fin 24 → Fin 1023 → State → Prop} {u : State}
    (next : ∀ k i l j s, succPos k i = some (l, j) → At k i s → ∃ t, Runs c s t ∧ At l j t)
    (last : ∀ k i s, succPos k i = none → At k i s → Runs c s u)
    {n : Nat} {k : Fin 24} {i : Fin 1023} {s : State} (hn : chipStep k i + n = 24552) (h : At k i s) :
    Runs (n * c) s u := by
  induction n generalizing k i s with
  | zero => exact absurd (chipStep_lt k i) (by omega)
  | succ n ih =>
    rw [Nat.succ_mul, Nat.add_comm]
    cases hp : succPos k i with
    | none =>
      have hend := chipStep_of_succPos_none hp
      have hn0 : n = 0 := by omega
      rw [hn0, Nat.zero_mul]
      exact last k i s hp h
    | some p =>
      obtain ⟨l, j⟩ := p
      have hsucc := chipStep_of_succPos hp
      obtain ⟨t, ht, hat⟩ := next k i l j s hp h
      exact ht.trans (ih (by omega) hat)

/-! ### The loops of `GEN` -/

/-- A `GEN` of `s` at the micro-operation `op` of the element `(k, i)`, with the registers of steps `m` and `n` and the table
`chip` written so far. -/
def genAt (s : State) (m n : Nat) (op : MicroOp) (k : Fin 24) (i : Fin 1023) (chip : Tab (Tab (Option Bool) 1023) 24) :
    State :=
  { s with
    phase := .genRun, mop := some op, ctrS := some k, ctrI := some i
    top := some (regAfter topNext m allOnes), bot := some (regAfter botNext n allOnes), chip := chip }

/-- `g_chip`, `g_top` and `g_bot`: one chip step. -/
theorem runs_chipStep (s : State) (k : Fin 24) (i : Fin 1023) (chip : Tab (Tab (Option Bool) 1023) 24) :
    Runs 3 (genAt s (chipStep k i) (chipStep k i) .gChip k i chip)
      (afterChip k i (genAt s (chipStep k i + 1) (chipStep k i + 1) .gBot k i
        (write2 chip k i (read2 (genChip s.tap) k i)))) := by
  generalize hc : write2 chip k i (read2 (genChip s.tap) k i) = chip'
  rw [genChip_read] at hc
  generalize hn : chipStep k i = n
  rw [← chipStep, hn] at hc
  have hchip : Runs 1 (genAt s n n .gChip k i chip) (genAt s n n .gTop k i chip') := by
    rw [← hc]
    exact Runs.of_micro (micro_gChip rfl rfl rfl rfl rfl rfl)
  have htop : Runs 1 (genAt s n n .gTop k i chip') (genAt s (n + 1) n .gBot k i chip') := by
    rw [genAt, genAt, regAfter_succ]
    exact Runs.of_micro (micro_gTop rfl rfl rfl)
  have hbot : Runs 1 (genAt s (n + 1) n .gBot k i chip') (afterChip k i (genAt s (n + 1) (n + 1) .gBot k i chip')) := by
    rw [genAt, genAt, regAfter_succ botNext]
    exact Runs.of_micro (micro_gBot rfl rfl rfl rfl rfl)
  exact (hchip.trans htop).trans hbot

/-- A `GEN` of `s` before the chip step of `(k, i)`. -/
def ChipLoopAt (s : State) (k : Fin 24) (i : Fin 1023) (t : State) : Prop :=
  ∃ chip, t = genAt s (chipStep k i) (chipStep k i) .gChip k i chip ∧ AgreeTo (chipStep k i) chip (genChip s.tap)

/-- The chip loops, three micro-operations a step. -/
theorem runs_chipLoop (s : State) :
    Runs (24552 * 3) (genAt s 0 0 .gChip 0 0 s.chip) (genAt s 24552 24552 .gMap 0 0 (genChip s.tap)) := by
  have start : ChipLoopAt s 0 0 (genAt s 0 0 .gChip 0 0 s.chip) := ⟨s.chip, rfl, AgreeTo.first _ _⟩
  refine runs_loop ?next ?last rfl start
  case next =>
    rintro k i l j _ hp ⟨chip, rfl, hc⟩
    refine ⟨_, runs_chipStep s k i chip, _, ?_, chipStep_of_succPos hp ▸ hc.write_next⟩
    rw [afterChip, hp, chipStep_of_succPos hp]
    rfl
  case last =>
    rintro k i _ hp ⟨chip, rfl, hc⟩
    have hrun := runs_chipStep s k i chip
    have hall := hc.write_next
    rw [chipStep_of_succPos_none hp] at hall hrun
    rw [hall.eq, afterChip, hp] at hrun
    exact hrun

/-- A `GEN` of `s` with all chips written and the table `b` of bipolar elements written so far, before the mapping of
`(k, i)`. -/
def mapAt (s : State) (k : Fin 24) (i : Fin 1023) (b : Tab (Tab (Option Bipolar) 1023) 24) : State :=
  { genAt s 24552 24552 .gMap k i (genChip s.tap) with bip := b }

theorem runs_mapStep (s : State) (k : Fin 24) (i : Fin 1023) (b : Tab (Tab (Option Bipolar) 1023) 24) :
    Runs 1 (mapAt s k i b) (afterMap k i (mapAt s k i (write2 b k i (read2 (genBip (genChip s.tap)) k i)))) := by
  rw [genBip_read, genChip_read]
  exact Runs.of_micro (micro_gMap rfl rfl rfl rfl (genChip_read s.tap k i))

/-- A `GEN` of `s` before the mapping of `(k, i)`. -/
def MapLoopAt (s : State) (k : Fin 24) (i : Fin 1023) (t : State) : Prop :=
  ∃ b, t = mapAt s k i b ∧ AgreeTo (chipStep k i) b (genBip (genChip s.tap))

/-- The mapping loops, one micro-operation an element, and the end of the command (40_generator R137). -/
theorem runs_mapLoop (s : State) :
    Runs (24552 * 1) (genAt s 24552 24552 .gMap 0 0 (genChip s.tap)) (respond 0 (genDone s)) := by
  have start : MapLoopAt s 0 0 (genAt s 24552 24552 .gMap 0 0 (genChip s.tap)) := ⟨s.bip, rfl, AgreeTo.first _ _⟩
  refine runs_loop ?next ?last rfl start
  case next =>
    rintro k i l j _ hp ⟨b, rfl, hb⟩
    refine ⟨_, runs_mapStep s k i b, _, ?_, chipStep_of_succPos hp ▸ hb.write_next⟩
    rw [afterMap, hp]
    rfl
  case last =>
    rintro k i _ hp ⟨b, rfl, hb⟩
    have hrun := runs_mapStep s k i b
    have hall := hb.write_next
    rw [chipStep_of_succPos_none hp] at hall
    rw [hall.eq, afterMap, hp] at hrun
    exact hrun

/-- `g_init` and both loops: the whole run of the generator. -/
theorem runs_gen (s : State) : Runs (1 + 24552 * 3 + 24552 * 1) (genStart s) (respond 0 (genDone s)) := by
  have hinit : Runs 1 (genStart s) (genAt s 0 0 .gChip 0 0 s.chip) := Runs.of_micro (micro_gInit rfl rfl)
  exact (hinit.trans (runs_chipLoop s)).trans (runs_mapLoop s)

/-- Settles O46: `g_init`, three micro-operations for each of the 24552 chips, and one for each bipolar element. -/
theorem genRunsMicroOps : Obligations.GenRunsMicroOps := by
  intro s hr
  refine ⟨runs_gen s s.rstIn hr, fun ha hs => ?_⟩
  rw [execGen_run ha, if_pos hs]
  rfl

end Sys2Proof.Machine
end

section
/-! The micro-operations of `ACQ`: one product, one offset, one satellite, all satellites (41_correlator R163, R167, R168). -/

namespace Sys2Proof.Machine

open Sys2Proof

/-! ### Elements present -/

/-- Where a product has a value, so have its first two elements and the product of the rest. -/
theorem dot_cons_some {x : Option (BitVec 5)} {b : Option Bipolar} {xs : List (Option (BitVec 5))}
    {bs : List (Option Bipolar)} {q : Int} (h : dot (x :: xs) (b :: bs) = some q) :
    ∃ v c p, x = some v ∧ b = some c ∧ dot xs bs = some p ∧ q = sampleInt v * bipolarInt c + p := by
  rw [dot] at h
  split at h
  · rename_i u p hu hp
    cases h
    unfold term at hu
    split at hu
    · cases hu
      exact ⟨_, _, p, rfl, rfl, hp, rfl⟩
    · cases hu
  · cases h

theorem dot_isSome : ∀ {xs : List (Option (BitVec 5))} {bs : List (Option Bipolar)},
    xs.all Option.isSome = true → bs.all Option.isSome = true → ∃ q, dot xs bs = some q
  | [], _, _, _ => ⟨0, rfl⟩
  | _ :: _, [], _, _ => ⟨0, rfl⟩
  | x :: xs, b :: bs, hx, hb => by
    rw [List.all_cons, Bool.and_eq_true] at hx hb
    obtain ⟨v, rfl⟩ := Option.isSome_iff_exists.mp hx.1
    obtain ⟨c, rfl⟩ := Option.isSome_iff_exists.mp hb.1
    obtain ⟨q, hq⟩ := dot_isSome hx.2 hb.2
    exact ⟨_, by rw [dot_cons, hq, Option.map_some]⟩

/-- Where `ACQ` finds every value it reads, the product of every satellite has a value. -/
theorem cDot_acc_of_readable {s : State} (h : acqReadable s = true) (k : Fin 24) : ∃ a, (cDot k s).acc = some a := by
  rw [acqReadable, Bool.and_eq_true, List.all_eq_true, Tab.forall_cells s.bip (fun r => rowPresent r = true)] at h
  obtain ⟨q, hq⟩ := dot_isSome h.1 (h.2 k)
  exact ⟨_, by rw [cDot_acc, hq, Option.map_some]⟩

theorem acqReadable_cRot {s : State} (h : acqReadable s = true) (k : Fin 24) : acqReadable (cRot k s) = true := by
  rw [acqReadable_iff] at h ⊢
  refine ⟨h.1, fun l i => ?_⟩
  rw [cRot_bip, read2, Tab.get_set]
  split
  · rw [rotrTab_get]
    split
    · exact h.2 k _
    · exact h.2 k _
  · exact h.2 l i

/-- A search rotates rows and loses no element. -/
theorem acqReadable_searchSat {s : State} (h : acqReadable s = true) (k : Fin 24) : acqReadable (searchSat k s) = true :=
  search_keeps k (fun s t => acqReadable s = true → acqReadable t = true) (fun _ _ _ hab hbc h => hbc (hab h))
    (fun _ h => h) (fun _ h => acqReadable_cRot h k) (fun _ _ _ h => h) (fun _ h => h) 1023 0 s h

theorem window_acqReadable {s : State} {x : Fin 1023 → BitVec 5} {b : Fin 24 → Fin 1023 → Bipolar} (h : Window s x b) :
    acqReadable s = true := by
  obtain ⟨-, -, hx, -, hb⟩ := h
  exact (acqReadable_iff s).mpr ⟨fun i => by rw [hx i]; rfl, fun k i => by rw [hb k i]; rfl⟩

/-! ### One product -/

/-- `s` inside a product, with the sum `a` so far, at the micro-operation `op` and element `j`. -/
def sumAt (s : State) (a : BitVec 16) (op : MicroOp) (j : Fin 1023) : State :=
  { s with acc := some a, mop := some op, ctrK := some j }

theorem drop_cells {α : Type} {n : Nat} (t : Tab α n) (i : Fin n) :
    t.cells.drop i.val = t.get i :: t.cells.drop (i.val + 1) := List.drop_eq_getElem_cons _

/-- The multiply-accumulate loop from element `j` on adds the rest of the product, in 16 bits (41_correlator R162, R163). -/
theorem runs_mac {s : State} {k : Fin 24} (hp : s.phase = .acqRun) (hk : s.ctrS = some k) {n : Nat} {j : Fin 1023}
    {a : BitVec 16} {q : Int} (hn : j.val + n = 1023)
    (hq : dot (s.samp.cells.drop j.val) ((s.bip.get k).cells.drop j.val) = some q) :
    Runs n (sumAt s a .cMac j) (sumAt s (a + BitVec.ofInt 16 q) .cDecide 1022) := by
  induction n generalizing j a q with
  | zero => exact absurd j.isLt (by omega)
  | succ n ih =>
    rw [drop_cells, drop_cells] at hq
    obtain ⟨v, c, p, hv, hc, hp', rfl⟩ := dot_cons_some hq
    have hmac : Runs 1 (sumAt s a .cMac j)
        (afterMac j (sumAt s (a + BitVec.ofInt 16 (sampleInt v * bipolarInt c)) .cMac j)) :=
      Runs.of_micro (micro_cMac hp rfl hk rfl rfl hv hc)
    rw [BitVec.ofInt_add, ← BitVec.add_assoc, Nat.add_comm n 1]
    cases hl : succIndex j with
    | none =>
      have hj := succIndex_none hl
      have hn0 : n = 0 := by omega
      have hp0 : p = 0 := by
        rw [hj, List.drop_of_length_le (by rw [s.samp.size_eq])] at hp'
        cases hp'
        rfl
      have hj' : j = 1022 := Fin.ext hj
      rw [afterMac, hl] at hmac
      subst hn0 hp0 hj'
      rw [show BitVec.ofInt 16 0 = 0#16 from rfl, BitVec.add_zero]
      exact hmac
    | some l =>
      have hlj := succIndex_some hl
      rw [afterMac, hl] at hmac
      rw [← hlj] at hp'
      exact hmac.trans (ih (by omega) hp')

/-- `c_clr` and the multiply-accumulate loop leave the product of `c_dot` (41_correlator R163). -/
theorem runs_product {s : State} {k : Fin 24} {a : BitVec 16} (hp : s.phase = .acqRun) (hk : s.ctrS = some k)
    (hm : s.mop = some .cClr) (ha : (cDot k s).acc = some a) : Runs (1 + 1023) s (sumAt s a .cDecide 1022) := by
  rw [cDot_acc] at ha
  obtain ⟨q, hq, rfl⟩ := Option.map_eq_some_iff.mp ha
  have hclr : Runs 1 s (sumAt s 0#16 .cMac 0) := Runs.of_micro (micro_cClr hp hm)
  have hmac := runs_mac (n := 1023) (j := 0) (a := 0#16) hp hk rfl hq
  rw [BitVec.zero_add] at hmac
  exact hclr.trans hmac

/-! ### One offset -/

/-- `s` in a search of satellite `k` before the product of offset `d`, the element counter holding `c`. -/
def seekAt (s : State) (k : Fin 24) (d : Nat) (c : Option (Fin 1023)) : State :=
  { s with
    phase := .acqRun, mop := some .cClr, ctrS := some k, ctrD := some (BitVec.ofNat 10 d), ctrK := c }

/-- Where the sequencer is when the search of `k` has left `s`: before the next satellite's first product, or at rest after
the response (41_correlator R168). -/
def afterSat (k : Fin 24) (s : State) : State :=
  match succSat k with
  | some l => seekAt s l 0 (some 1022)
  | none => acqFinish s

/-- The end of a search overwrites the position the search ended at. -/
theorem afterSearch_eq_afterSat (k : Fin 24) (s : State) (op : Option MicroOp) (l : Option (Fin 24))
    (d : Option (BitVec 10)) :
    afterSearch k { s with phase := .acqRun, mop := op, ctrS := l, ctrD := d, ctrK := some 1022 } = afterSat k s := by
  unfold afterSearch afterSat
  cases succSat k <;> rfl

section Offset

variable {s : State} {k : Fin 24} {d : Nat} {c : Option (Fin 1023)} {a : BitVec 16}

theorem cDot_eq (ha : (cDot k s).acc = some a) : cDot k s = { s with acc := some a } := by
  rw [← ha]
  rfl

theorem runs_seek_product (ha : (cDot k s).acc = some a) :
    Runs 1024 (seekAt s k d c) (sumAt (seekAt s k d c) a .cDecide 1022) := runs_product rfl rfl rfl ha

theorem search_hit {bit : Bool} (n : Nat) (ha : (cDot k s).acc = some a) (hit : decideAcc a = .hit bit) :
    search k (n + 1) d s = emitFound k bit (BitVec.ofNat 10 d) (cDot k s) := by
  rw [search, ha, decideReg, hit]

theorem search_miss (n : Nat) (ha : (cDot k s).acc = some a) (miss : decideAcc a = .miss) :
    search k (n + 1) d s = search k n (d + 1) (cRot k (cDot k s)) := by
  rw [search, ha, decideReg, miss]

/-- An offset that crosses a threshold ends the search (41_correlator R165). -/
theorem runs_hit {bit : Bool} (ha : (cDot k s).acc = some a) (hit : decideAcc a = .hit bit) :
    Runs 1025 (seekAt s k d c) (afterSat k (emitFound k bit (BitVec.ofNat 10 d) (cDot k s))) := by
  have hdecide : Runs 1 (sumAt (seekAt s k d c) a .cDecide 1022)
      (afterSearch k (emitFound k bit (BitVec.ofNat 10 d) (sumAt (seekAt s k d c) a .cDecide 1022))) :=
    Runs.of_micro (micro_cDecide_hit rfl rfl rfl rfl rfl hit)
  rw [cDot_eq ha, ← afterSearch_eq_afterSat k _ (some .cDecide) (some k) (some (BitVec.ofNat 10 d))]
  exact (runs_seek_product ha).trans hdecide

/-- An offset that crosses none is followed by the rotation (41_correlator R165, R166). -/
theorem runs_miss (ha : (cDot k s).acc = some a) (miss : decideAcc a = .miss) :
    Runs 1026 (seekAt s k d c)
      (afterRot k (BitVec.ofNat 10 d) (cRot k (sumAt (seekAt s k d c) a .cRot 1022))) := by
  have hdecide : Runs 1 (sumAt (seekAt s k d c) a .cDecide 1022) (sumAt (seekAt s k d c) a .cRot 1022) :=
    Runs.of_micro (micro_cDecide_miss rfl rfl rfl rfl rfl miss)
  have hrot := Runs.of_micro (micro_cRot (s := sumAt (seekAt s k d c) a .cRot 1022) rfl rfl rfl rfl)
  exact ((runs_seek_product ha).trans hdecide).trans hrot

/-- After a miss before offset 1022 comes the next offset (41_correlator R167). -/
theorem afterRot_next (ha : (cDot k s).acc = some a) (hd : d + 1 < 1023) :
    afterRot k (BitVec.ofNat 10 d) (cRot k (sumAt (seekAt s k d c) a .cRot 1022)) =
      seekAt (cRot k (cDot k s)) k (d + 1) (some 1022) := by
  have hne : ¬(BitVec.ofNat 10 d).toNat + 1 = 1023 := by
    rw [BitVec.toNat_ofNat]
    omega
  rw [afterRot, if_neg hne, cDot_eq ha]
  simp only [seekAt, BitVec.ofNat_add]
  rfl

/-- After a miss at offset 1022 the search ends with NOSYNC (41_correlator R167). -/
theorem afterRot_last (ha : (cDot k s).acc = some a) (hd : d + 1 = 1023) :
    afterRot k (BitVec.ofNat 10 d) (cRot k (sumAt (seekAt s k d c) a .cRot 1022)) =
      afterSat k (markNosync k (cRot k (cDot k s))) := by
  have heq : (BitVec.ofNat 10 d).toNat + 1 = 1023 := by
    rw [BitVec.toNat_ofNat]
    omega
  rw [afterRot, if_pos heq, cDot_eq ha,
    ← afterSearch_eq_afterSat k _ (some .cRot) (some k) (some (BitVec.ofNat 10 d + 1))]
  rfl

end Offset

/-! ### One satellite, and all of them -/

/-- The search of satellite `k` from offset `d` on, at most 1026 micro-operations an offset (41_correlator R167). -/
theorem runs_search {k : Fin 24} {s : State} {d : Nat} {c : Option (Fin 1023)} (n : Nat) (hd : d + n + 1 = 1023)
    (hr : acqReadable s = true) :
    RunsWithin ((n + 1) * 1026) (seekAt s k d c) (afterSat k (search k (n + 1) d s)) := by
  obtain ⟨a, ha⟩ := cDot_acc_of_readable hr k
  cases hdec : decideAcc a with
  | hit bit =>
    rw [search_hit n ha hdec]
    exact (runs_hit ha hdec).within (by omega)
  | miss =>
    have hmiss := runs_miss (d := d) (c := c) ha hdec
    rw [search_miss n ha hdec]
    cases n with
    | zero =>
      rw [afterRot_last ha hd] at hmiss
      exact hmiss.within le_rfl
    | succ n =>
      rw [afterRot_next ha (by omega)] at hmiss
      rw [Nat.succ_mul (n + 1), Nat.add_comm]
      exact (hmiss.within le_rfl).trans (runs_search n (by omega) (acqReadable_cRot (s := cDot k s) hr k))
termination_by n

theorem runs_searchSat {k : Fin 24} {s : State} {c : Option (Fin 1023)} (hr : acqReadable s = true) :
    RunsWithin (1023 * 1026) (seekAt s k 0 c) (afterSat k (searchSat k s)) := runs_search 1022 rfl hr

theorem finRange_drop (k : Fin 24) :
    (List.finRange 24).drop k.val = k :: (List.finRange 24).drop (k.val + 1) := by
  have hk : k.val < (List.finRange 24).length := by
    rw [List.length_finRange]
    exact k.isLt
  rw [List.drop_eq_getElem_cons hk, List.getElem_finRange]
  rfl

/-- The searches of satellite `k` and of those after it, to the end of the command (41_correlator R168, R169). -/
theorem runs_satellites {n : Nat} {k : Fin 24} {s : State} {c : Option (Fin 1023)} (hk : k.val + n + 1 = 24)
    (hr : acqReadable s = true) :
    RunsWithin ((n + 1) * (1023 * 1026)) (seekAt s k 0 c) (acqFinish (searchAll ((List.finRange 24).drop k.val) s)) := by
  have hsat := runs_searchSat (k := k) (c := c) hr
  rw [finRange_drop, searchAll_cons]
  induction n generalizing k s c with
  | zero =>
    have hlast : succSat k = none := dif_neg (by omega)
    rw [afterSat, hlast] at hsat
    rw [List.drop_of_length_le (by rw [List.length_finRange]; omega), Nat.one_mul]
    exact hsat
  | succ n ih =>
    have hnext : succSat k = some ⟨k.val + 1, by omega⟩ := dif_pos (by omega)
    have hr' := acqReadable_searchSat hr k
    rw [afterSat, hnext] at hsat
    rw [finRange_drop ⟨k.val + 1, by omega⟩, searchAll_cons, Nat.succ_mul (n + 1), Nat.add_comm]
    exact hsat.trans (ih (by simp only; omega) hr' (runs_searchSat hr'))

/-- The whole run of the correlator. -/
theorem runs_acq {s : State} (hr : acqReadable s = true) :
    RunsWithin (24 * (1023 * 1026)) (acqStart s) (respond 0 (acqDone s)) :=
  runs_satellites (n := 23) (k := 0) (s := clearResults s) (c := s.ctrK) rfl hr

/-- Settles O47: satellite by satellite, offset by offset, `c_clr`, 1023 `c_mac`, `c_decide` and, on a miss, `c_rot`. -/
theorem acqRunsMicroOps : Obligations.AcqRunsMicroOps := by
  intro s x b hw hquiet
  have hr := window_acqReadable hw
  obtain ⟨hp, hv, -⟩ := hw
  refine ⟨?_, fun hs => ?_⟩
  · obtain ⟨n, hn, hrun⟩ := runs_acq hr
    rw [← Nat.mul_assoc] at hn
    exact ⟨n, hn, hrun s.rstIn (QuietFor.mono hquiet hn)⟩
  · rw [execAcq_run hp ((sfull_iff s).mpr hv) hr, if_pos hs]
    rfl

end Sys2Proof.Machine
end

section
/-! What no micro-operation writes, which phases it leads to, and what holds right after reset. -/

namespace Sys2Proof.Machine

open Sys2Proof

/-! ### One micro-operation of each command -/

/-- The samples with their marks, `ERR` and `TAP` are unchanged (40_generator R137, 41_correlator R169, 10_state R24). -/
def SameInputs (s t : State) : Prop := t.samp = s.samp ∧ t.svalid = s.svalid ∧ t.err = s.err ∧ t.tap = s.tap

theorem SameInputs.refl (s : State) : SameInputs s s := ⟨rfl, rfl, rfl, rfl⟩

/-- A step within `GEN` or to its end, which leaves the results and the log alone as well (40_generator R137). -/
def GenStep (s t : State) : Prop :=
  SameInputs s t ∧ t.res = s.res ∧ t.detlog = s.detlog ∧ (t.phase = s.phase ∨ t.phase = .ready)

theorem GenStep.refl (s : State) : GenStep s s := ⟨.refl s, rfl, rfl, .inl rfl⟩

theorem afterChip_genStep (k : Fin 24) (i : Fin 1023) (s : State) : GenStep s (afterChip k i s) := by
  unfold afterChip
  split <;> exact .refl s

theorem afterMap_genStep (k : Fin 24) (i : Fin 1023) (s : State) : GenStep s (afterMap k i s) := by
  unfold afterMap
  split
  · exact .refl s
  · exact ⟨.refl s, rfl, rfl, .inr rfl⟩

theorem micro_genStep {s t : State} (hp : s.phase = .genRun) (h : micro s = .next t) : GenStep s t := by
  rcases micro_cases h with ⟨-, h⟩ | ⟨ha, -⟩
  · rcases h with ⟨-, rfl⟩ | ⟨-, k, i, x, y, -, -, -, -, rfl⟩ | ⟨-, x, -, rfl⟩ | ⟨-, k, i, y, -, -, -, rfl⟩ |
      ⟨-, k, i, c, -, -, -, rfl⟩
    · exact .refl s
    · exact .refl s
    · exact .refl s
    · exact afterChip_genStep k i _
    · exact afterMap_genStep k i _
  · cases ha.symm.trans hp

/-- A step within `ACQ` or to its end (41_correlator R169). -/
def AcqStep (s t : State) : Prop := SameInputs s t ∧ (t.phase = s.phase ∨ t.phase = .done)

theorem AcqStep.refl (s : State) : AcqStep s s := ⟨.refl s, .inl rfl⟩

theorem afterMac_acqStep (j : Fin 1023) (s : State) : AcqStep s (afterMac j s) := by
  unfold afterMac
  split <;> exact .refl s

theorem afterSearch_acqStep (k : Fin 24) (s : State) : AcqStep s (afterSearch k s) := by
  unfold afterSearch
  split
  · exact .refl s
  · exact ⟨.refl s, .inr rfl⟩

theorem afterRot_acqStep (k : Fin 24) (d : BitVec 10) (s : State) : AcqStep s (afterRot k d s) := by
  unfold afterRot
  split
  · exact afterSearch_acqStep k _
  · exact .refl s

theorem micro_acqStep {s t : State} (hp : s.phase = .acqRun) (h : micro s = .next t) : AcqStep s t := by
  rcases micro_cases h with ⟨hg, -⟩ | ⟨-, h⟩
  · cases hg.symm.trans hp
  · rcases h with ⟨-, rfl⟩ | ⟨-, k, j, a, x, c, -, -, -, -, -, rfl⟩ |
      ⟨-, k, d, a, -, -, -, ⟨bit, -, rfl⟩ | ⟨-, rfl⟩⟩ | ⟨-, k, d, -, -, rfl⟩
    · exact .refl s
    · exact afterMac_acqStep j _
    · exact afterSearch_acqStep k _
    · exact .refl s
    · exact afterRot_acqStep k d _

/-! ### Any micro-operation -/

theorem micro_running {s t : State} (h : micro s = .next t) : s.phase = .genRun ∨ s.phase = .acqRun :=
  (micro_cases h).imp And.left And.left

theorem micro_sameInputs {s t : State} (h : micro s = .next t) : SameInputs s t := by
  rcases micro_running h with hp | hp
  · exact (micro_genStep hp h).1
  · exact (micro_acqStep hp h).1

/-- A micro-operation stays in its command or completes it (40_generator R137, 41_correlator R169). -/
theorem micro_phase {s t : State} (h : micro s = .next t) :
    (s.phase = .genRun ∧ (t.phase = .genRun ∨ t.phase = .ready)) ∨
      (s.phase = .acqRun ∧ (t.phase = .acqRun ∨ t.phase = .done)) := by
  rcases micro_running h with hp | hp
  · obtain ⟨-, -, -, hp'⟩ := micro_genStep hp h
    exact .inl ⟨hp, hp ▸ hp'⟩
  · obtain ⟨-, hp'⟩ := micro_acqStep hp h
    exact .inr ⟨hp, hp ▸ hp'⟩

/-! ### After reset -/

/-- Whatever the machine was doing, reset leaves the invariant true (10_state R39, 70 R261). -/
theorem inv_applyReset (s : State) : Inv (applyReset s) where
  latch := by simp [LatchInv]
  sample := by simp [SampleInv]
  position := show CountersAbsent (applyReset s) by simp [CountersAbsent]
  result := by simp [ResultInv, Result.none]
  log := by simp [LogInv]
  tables := trivial

/-- Settles O59: the reset state is what reset makes of it. -/
theorem invariantAtReset : Obligations.InvariantAtReset := inv_applyReset State.reset

end Sys2Proof.Machine
end

section
/-! The error latch, the samples and `TAP` under every step (10_state R24, R27, R28, R33). -/

namespace Sys2Proof.Machine

open Sys2Proof

/-! ### `TAP` -/

theorem accept_tap {w : Word} {s t : State} (h : accept w s = .next t) : t.tap = s.tap := by
  rcases accept_effect h with ⟨_, rfl⟩ | ⟨e, -, -, rfl⟩ | ⟨-, rfl⟩ | ⟨-, k, v, -, -, rfl⟩ | ⟨-, ⟨-, rfl⟩ | ⟨-, rfl⟩⟩ |
    ⟨-, -, ⟨-, -, rfl⟩ | ⟨-, rfl⟩⟩
  · rfl
  · rfl
  · rfl
  · rfl
  · rfl
  · rfl
  · obtain ⟨-, -, -, -, -, -, -, htap, -⟩ := acqDone_same s
    rw [respond_tap, htap]
  · rfl

/-- Settles O52: reset, a micro-operation, a wait and an accepted word each leave `TAP` alone. -/
theorem tapNeverWritten : Obligations.TapNeverWritten := by
  intro s t h
  rcases step_next h with ⟨rest, -, rfl⟩ | ⟨-, ⟨-, h⟩ | ⟨-, -, rfl⟩ | ⟨w, ws, -, -, h⟩⟩
  · rfl
  · obtain ⟨-, -, -, htap⟩ := micro_sameInputs h
    exact htap
  · rfl
  · exact (accept_tap h).trans rfl

/-! ### The error latch -/

/-- Outside FAULT the latch is right where it is empty. -/
theorem latchInv_iff_of_not_fault {s : State} (h : s.phase ≠ .fault) : LatchInv s ↔ s.err = .none := by
  constructor
  · rintro ⟨hiff, -⟩
    exact not_not.mp fun he => h (hiff.mp he)
  · intro he
    simp [LatchInv, he, h]

/-- What leaves `ERR` alone and neither leaves nor enters FAULT keeps the latch right. -/
theorem latchInv_of_err_eq {s t : State} (hs : s.phase ≠ .fault) (ht : t.phase ≠ .fault) (he : t.err = s.err)
    (h : LatchInv s) : LatchInv t := by
  rw [latchInv_iff_of_not_fault ht, he]
  exact (latchInv_iff_of_not_fault hs).mp h

theorem latchInv_latch {s : State} {e : Err} (h1 : e ≠ .none) (h2 : e ≠ .faulted) (h : LatchInv s) :
    LatchInv (latch e s) := by
  obtain ⟨-, hf⟩ := h
  rw [LatchInv, latch_err, latch_phase]
  split
  · exact ⟨iff_of_true h1 rfl, h2⟩
  · exact ⟨iff_of_true ‹_› rfl, hf⟩

/-- Settles O54: error entry sets `ERR` and FAULT together, reset clears both, and nothing else touches either. -/
theorem latchKept : Obligations.LatchKept := by
  intro s t hs h
  refine step_keeps LatchInv (fun _ => True) (fun _ _ _ _ => trivial) (fun _ _ _ h => h) (fun _ _ h => h)
    (fun s => (inv_applyReset s).latch) (fun _ _ _ h1 h2 h => latchInv_latch h1 h2 h) (fun _ _ _ _ _ _ h => h)
    ?gen ?acq ?micro trivial hs h
  case gen =>
    intro s ha _ h
    have hf := (accepting_rest ha).2
    exact ⟨latchInv_of_err_eq hf (by simp) rfl h, latchInv_of_err_eq hf (by simp) rfl h⟩
  case acq =>
    intro s hp _ _ h
    have hf : s.phase ≠ .fault := by simp [hp]
    obtain ⟨-, -, -, -, -, herr, -⟩ := acqDone_same s
    exact ⟨fun _ => latchInv_of_err_eq hf (by simp) herr h, latchInv_of_err_eq hf (by simp) rfl h⟩
  case micro =>
    intro s t _ hs h
    obtain ⟨-, -, herr, -⟩ := micro_sameInputs h
    refine latchInv_of_err_eq ?_ ?_ herr hs
    · rcases micro_phase h with ⟨hp, -⟩ | ⟨hp, -⟩ <;> simp [hp]
    · rcases micro_phase h with ⟨-, hp | hp⟩ | ⟨-, hp | hp⟩ <;> simp [hp]

/-! ### The samples -/

/-- What leaves the samples and their marks alone and starts no search keeps the samples right. -/
theorem sampleInv_of_same {s t : State} (hx : t.samp = s.samp) (hv : t.svalid = s.svalid)
    (hp : t.phase = .acqRun → s.phase = .acqRun) (h : SampleInv s) : SampleInv t := by
  obtain ⟨habsent, hpresent, hfull⟩ := h
  rw [SampleInv, sfull, hx, hv]
  exact ⟨habsent, hpresent, fun ht => hfull (hp ht)⟩

/-- A search that starts on a full window keeps the samples right. -/
theorem sampleInv_acqStart {s : State} (hf : sfull s = true) (h : SampleInv s) : SampleInv (acqStart s) := by
  obtain ⟨habsent, hpresent, -⟩ := h
  exact ⟨habsent, hpresent, fun _ => hf⟩

theorem sampleInv_writeSample {s : State} (k : Fin 1023) {v : Int} (hp : s.phase ≠ .acqRun) (h1 : -9 ≤ v) (h2 : v ≤ 9)
    (h : SampleInv s) : SampleInv (writeSample k (BitVec.ofInt 5 v) s) := by
  obtain ⟨habsent, hpresent, -⟩ := h
  refine ⟨fun i hi => ?_, fun i hi => ?_, fun ht => absurd ht hp⟩
  · rw [writeSample_svalid, Tab.get_set] at hi
    rw [writeSample_samp, Tab.get_set]
    split at hi
    · cases hi
    · rw [if_neg ‹_›]
      exact habsent i hi
  · rw [writeSample_svalid, Tab.get_set] at hi
    rw [writeSample_samp, Tab.get_set]
    split at hi
    · rw [if_pos ‹_›]
      exact ⟨_, rfl, by rwa [sampleInt_ofInt h1 h2], by rwa [sampleInt_ofInt h1 h2]⟩
    · rw [if_neg ‹_›]
      exact hpresent i hi

/-- Settles O55: `LDS` writes a sample with its mark, reset clears both, and `ACQ` starts only on a full window. -/
theorem samplesKept : Obligations.SamplesKept := by
  intro s t hs h
  refine step_keeps SampleInv (fun _ => True) (fun _ _ _ _ => trivial) (fun _ _ _ h => h) (fun _ _ h => h)
    (fun s => (inv_applyReset s).sample) (fun s _ _ _ _ h => sampleInv_of_same (s := s) rfl rfl (by simp) h)
    ?lds ?gen ?acq ?micro trivial hs h
  case lds =>
    intro s k v ha h1 h2 h
    have hp : s.phase ≠ .acqRun := by rcases ha with hp | hp | hp <;> simp [hp]
    exact sampleInv_writeSample k hp h1 h2 h
  case gen =>
    intro s _ _ h
    exact ⟨sampleInv_of_same (s := s) rfl rfl (by simp) h, sampleInv_of_same (s := s) rfl rfl (by simp) h⟩
  case acq =>
    intro s _ hf _ h
    obtain ⟨-, -, -, hx, hv, -⟩ := acqDone_same s
    exact ⟨fun _ => sampleInv_of_same hx hv (by simp) h, sampleInv_acqStart hf h⟩
  case micro =>
    intro s t _ hs h
    obtain ⟨hx, hv, -, -⟩ := micro_sameInputs h
    refine sampleInv_of_same hx hv (fun ht => ?_) hs
    rcases micro_phase h with ⟨-, hp | hp⟩ | ⟨hp, -⟩
    · cases hp.symm.trans ht
    · cases hp.symm.trans ht
    · exact hp

end Sys2Proof.Machine
end

section
/-! The sequencer's position under every step (10_state R35, 93 U9). -/

namespace Sys2Proof.Machine

open Sys2Proof

/-! ### The position of each phase -/

theorem positionInv_rest {s : State} (hb : busy s.phase = false) : PositionInv s ↔ CountersAbsent s := by
  rw [PositionInv]
  cases hp : s.phase with
  | genRun => simp [hp, busy] at hb
  | acqRun => simp [hp, busy] at hb
  | idle => rfl
  | ready => rfl
  | done => rfl
  | fault => rfl

theorem positionInv_genRun {s : State} (hp : s.phase = .genRun) : PositionInv s ↔ GenPosition s := by
  rw [PositionInv, hp]

theorem positionInv_acqRun {s : State} (hp : s.phase = .acqRun) : PositionInv s ↔ AcqPosition s := by
  rw [PositionInv, hp]

theorem positionInv_of_genPosition {s : State} (h : GenPosition s) (hp : s.phase = .genRun) : PositionInv s :=
  (positionInv_genRun hp).mpr h

theorem positionInv_of_acqPosition {s : State} (h : AcqPosition s) (hp : s.phase = .acqRun) : PositionInv s :=
  (positionInv_acqRun hp).mpr h

/-! ### Commands -/

theorem positionInv_latch {s : State} (e : Err) (hb : busy s.phase = false) (h : PositionInv s) :
    PositionInv (latch e s) :=
  (positionInv_rest rfl).mpr ((positionInv_rest hb).mp h)

theorem positionInv_genDone {s : State} (hb : busy s.phase = false) (h : PositionInv s) : PositionInv (genDone s) := by
  obtain ⟨-, -, -, hd, hk⟩ := (positionInv_rest hb).mp h
  exact (positionInv_rest rfl).mpr ⟨rfl, rfl, rfl, hd, hk⟩

theorem positionInv_genStart {s : State} (hb : busy s.phase = false) (h : PositionInv s) : PositionInv (genStart s) := by
  obtain ⟨-, hs, hi, hd, hk⟩ := (positionInv_rest hb).mp h
  exact (positionInv_genRun rfl).mpr ⟨hd, hk, .inl ⟨rfl, hs, hi⟩⟩

theorem positionInv_acqDone {s : State} (hb : busy s.phase = false) (h : PositionInv s) : PositionInv (acqDone s) := by
  obtain ⟨-, -, hi, -, -⟩ := (positionInv_rest hb).mp h
  obtain ⟨-, -, -, -, -, -, hi', -⟩ := acqDone_same s
  exact (positionInv_rest rfl).mpr ⟨rfl, rfl, hi'.trans hi, rfl, rfl⟩

theorem positionInv_acqStart {s : State} (hb : busy s.phase = false) (h : PositionInv s) : PositionInv (acqStart s) := by
  obtain ⟨-, -, hi, -, -⟩ := (positionInv_rest hb).mp h
  exact (positionInv_acqRun rfl).mpr ⟨hi, ⟨0, rfl⟩, ⟨0, rfl, by decide⟩, .inl rfl⟩

/-! ### The generator's micro-operations -/

/-- After `g_init` the generator's counters and registers hold values. -/
theorem genPosition_written {s : State} {m : MicroOp} (h : GenPosition s) (hm : s.mop = some m) (hne : m ≠ .gInit) :
    (∃ k, s.ctrS = some k) ∧ (∃ i, s.ctrI = some i) ∧ (∃ x, s.top = some x) ∧ ∃ y, s.bot = some y := by
  obtain ⟨-, -, ⟨hinit, -⟩ | ⟨hs, hi, hx, hy, -⟩⟩ := h
  · exact absurd (Option.some.inj (hm.symm.trans hinit)) hne
  · exact ⟨hs, hi, hx, hy⟩

theorem positionInv_afterChip {k : Fin 24} {i : Fin 1023} {s : State} (hp : s.phase = .genRun) (hd : s.ctrD = none)
    (hk : s.ctrK = none) (hx : ∃ x, s.top = some x) (hy : ∃ y, s.bot = some y) : PositionInv (afterChip k i s) := by
  unfold afterChip
  split
  · exact positionInv_of_genPosition ⟨hd, hk, .inr ⟨⟨_, rfl⟩, ⟨_, rfl⟩, hx, hy, .inl rfl⟩⟩ hp
  · exact positionInv_of_genPosition ⟨hd, hk, .inr ⟨⟨_, rfl⟩, ⟨_, rfl⟩, hx, hy, .inr (.inr (.inr rfl))⟩⟩ hp

theorem positionInv_afterMap {k : Fin 24} {i : Fin 1023} {s : State} (hp : s.phase = .genRun) (hm : s.mop = some .gMap)
    (hd : s.ctrD = none) (hk : s.ctrK = none) (hx : ∃ x, s.top = some x) (hy : ∃ y, s.bot = some y) :
    PositionInv (afterMap k i s) := by
  unfold afterMap
  split
  · exact positionInv_of_genPosition ⟨hd, hk, .inr ⟨⟨_, rfl⟩, ⟨_, rfl⟩, hx, hy, .inr (.inr (.inr hm))⟩⟩ hp
  · exact (positionInv_rest rfl).mpr ⟨rfl, rfl, rfl, hd, hk⟩

/-! ### The correlator's micro-operations -/

theorem positionInv_afterMac {j : Fin 1023} {s : State} (hp : s.phase = .acqRun) (hm : s.mop = some .cMac)
    (hi : s.ctrI = none) (hs : ∃ k, s.ctrS = some k) (hd : ∃ d, s.ctrD = some d ∧ d.toNat < 1023)
    (ha : ∃ a, s.acc = some a) : PositionInv (afterMac j s) := by
  unfold afterMac
  split
  · exact positionInv_of_acqPosition ⟨hi, hs, hd, .inr (.inl ⟨hm, ⟨_, rfl⟩, ha⟩)⟩ hp
  · exact positionInv_of_acqPosition ⟨hi, hs, hd, .inr (.inr (.inl ⟨rfl, ha⟩))⟩ hp

theorem positionInv_afterSearch {k : Fin 24} {s : State} (hp : s.phase = .acqRun) (hi : s.ctrI = none) :
    PositionInv (afterSearch k s) := by
  unfold afterSearch
  split
  · exact positionInv_of_acqPosition ⟨hi, ⟨_, rfl⟩, ⟨0, rfl, by decide⟩, .inl rfl⟩ hp
  · exact (positionInv_rest rfl).mpr ⟨rfl, rfl, hi, rfl, rfl⟩

/-- The next offset of a search is one more while offsets are left (41_correlator R167). -/
theorem toNat_succ_offset {d : BitVec 10} (hd : d.toNat + 1 < 1024) : (d + 1).toNat = d.toNat + 1 := by
  rw [BitVec.toNat_add]
  exact Nat.mod_eq_of_lt hd

theorem positionInv_afterRot {k : Fin 24} {d : BitVec 10} {s : State} (hp : s.phase = .acqRun) (hi : s.ctrI = none)
    (hs : ∃ k, s.ctrS = some k) (hd : d.toNat < 1023) : PositionInv (afterRot k d s) := by
  unfold afterRot
  split
  · exact positionInv_afterSearch hp hi
  · rename_i hne
    refine positionInv_of_acqPosition ⟨hi, hs, ⟨d + 1, rfl, ?_⟩, .inl rfl⟩ hp
    rw [toNat_succ_offset (by omega)]
    omega

/-! ### Every step -/

theorem micro_positionInv {s t : State} (hpos : PositionInv s) (h : micro s = .next t) : PositionInv t := by
  rcases micro_cases h with ⟨hp, h⟩ | ⟨hp, h⟩
  · have hg := (positionInv_genRun hp).mp hpos
    have ⟨hd, hk, _⟩ := hg
    rcases h with ⟨-, rfl⟩ | ⟨hm, k, i, x, y, hs, hi, hx, hy, rfl⟩ | ⟨hm, x, -, rfl⟩ | ⟨hm, k, i, y, -, -, -, rfl⟩ |
      ⟨hm, k, i, c, -, -, -, rfl⟩
    · exact positionInv_of_genPosition ⟨hd, hk, .inr ⟨⟨_, rfl⟩, ⟨_, rfl⟩, ⟨_, rfl⟩, ⟨_, rfl⟩, .inl rfl⟩⟩ hp
    · exact positionInv_of_genPosition ⟨hd, hk, .inr ⟨⟨k, hs⟩, ⟨i, hi⟩, ⟨x, hx⟩, ⟨y, hy⟩, .inr (.inl rfl)⟩⟩ hp
    · obtain ⟨hs, hi, -, hy⟩ := genPosition_written hg hm (by decide)
      exact positionInv_of_genPosition ⟨hd, hk, .inr ⟨hs, hi, ⟨_, rfl⟩, hy, .inr (.inr (.inl rfl))⟩⟩ hp
    · obtain ⟨-, -, hx, -⟩ := genPosition_written hg hm (by decide)
      exact positionInv_afterChip hp hd hk hx ⟨_, rfl⟩
    · obtain ⟨-, -, hx, hy⟩ := genPosition_written hg hm (by decide)
      exact positionInv_afterMap hp hm hd hk hx hy
  · obtain ⟨hi, hs, hd, -⟩ := (positionInv_acqRun hp).mp hpos
    rcases h with ⟨-, rfl⟩ | ⟨hm, k, j, a, x, c, -, -, -, -, -, rfl⟩ |
      ⟨-, k, d, a, -, -, -, ⟨bit, -, rfl⟩ | ⟨-, rfl⟩⟩ | ⟨-, k, d, -, hd', rfl⟩
    · exact positionInv_of_acqPosition ⟨hi, hs, hd, .inr (.inl ⟨rfl, ⟨_, rfl⟩, ⟨_, rfl⟩⟩)⟩ hp
    · exact positionInv_afterMac hp hm hi hs hd ⟨_, rfl⟩
    · exact positionInv_afterSearch hp hi
    · exact positionInv_of_acqPosition ⟨hi, hs, hd, .inr (.inr (.inr rfl))⟩ hp
    · obtain ⟨d', hd'', hlt⟩ := hd
      cases hd'.symm.trans hd''
      exact positionInv_afterRot hp hi hs hlt

/-- Settles O56: each micro-operation writes the position of the next one, the last of a command clears it, and a command
starts from a position absent at rest. -/
theorem positionKept : Obligations.PositionKept := by
  intro s t hs h
  refine step_keeps PositionInv (fun _ => True) (fun _ _ _ _ => trivial) (fun _ _ _ h => h) (fun _ _ h => h)
    (fun s => (inv_applyReset s).position) (fun _ e hb _ _ h => positionInv_latch e hb h) (fun _ _ _ _ _ _ h => h)
    ?gen ?acq (fun _ _ _ hs h => micro_positionInv hs h) trivial hs h
  case gen =>
    intro s ha _ h
    have hb := (accepting_rest ha).1
    exact ⟨positionInv_genDone hb h, positionInv_genStart hb h⟩
  case acq =>
    intro s hp _ _ h
    have hb : busy s.phase = false := by rw [hp]; rfl
    exact ⟨fun _ => positionInv_acqDone hb h, positionInv_acqStart hb h⟩

end Sys2Proof.Machine
end

section
/-! The search of a satellite, in one step and in micro-operations: the result it leaves and the row it leaves
(41_correlator R165 to R169, R171). -/

namespace Sys2Proof.Machine

open Sys2Proof

/-! ### What the search of one satellite leaves -/

/-- Satellite `k` has a result, and its row is `row` rotated by what the result reports (41_correlator R171). -/
def SearchedRow (k : Fin 24) (row : Tab (Option Bipolar) 1023) (t : State) : Prop :=
  (t.res.get k).status ≠ .none ∧ IsRotr (shiftOf (t.res.get k)) (t.bip.get k) row

theorem searchedRow_emitFound {k : Fin 24} {bit : Bool} {d : BitVec 10} {row : Tab (Option Bipolar) 1023} {s : State}
    (h : IsRotr d.toNat (s.bip.get k) row) : SearchedRow k row (emitFound k bit d s) := by
  rw [SearchedRow, emitFound_res, Tab.get_set_self]
  exact ⟨by simp, h⟩

/-- After a miss at every offset the row is back where it was (41_correlator R167, 00_scope R18). -/
theorem searchedRow_markNosync {k : Fin 24} {row : Tab (Option Bipolar) 1023} {s : State}
    (h : IsRotr 1023 (s.bip.get k) row) : SearchedRow k row (markNosync k s) := by
  rw [SearchedRow, markNosync_res, Tab.get_set_self]
  exact ⟨by decide, isRotr_full h⟩

theorem toNat_offset {d : Nat} (hd : d < 1023) : (BitVec.ofNat 10 d).toNat = d :=
  Nat.mod_eq_of_lt (Nat.lt_succ_of_lt hd)

theorem isRotr_cRot {k : Fin 24} {d : Nat} {row : Tab (Option Bipolar) 1023} {s : State}
    (h : IsRotr d (s.bip.get k) row) : IsRotr (d + 1) ((cRot k s).bip.get k) row := by
  rw [cRot_bip, Tab.get_set_self]
  exact isRotr_succ h

theorem search_searchedRow {k : Fin 24} {row : Tab (Option Bipolar) 1023} (n : Nat) {d : Nat} {s : State}
    (hd : d + n = 1023) (h : IsRotr d (s.bip.get k) row) : SearchedRow k row (search k n d s) := by
  induction n generalizing d s with
  | zero =>
    obtain rfl : d = 1023 := hd
    exact searchedRow_markNosync h
  | succ n ih =>
    rw [search]
    split
    · refine searchedRow_emitFound ?_
      rw [toNat_offset (by omega)]
      exact h
    · exact ih (by omega) (isRotr_cRot (s := cDot k s) h)

theorem searchSat_searchedRow (k : Fin 24) (s : State) : SearchedRow k (s.bip.get k) (searchSat k s) :=
  search_searchedRow 1023 (Nat.zero_add 1023) (isRotr_zero _)

/-- The satellite loop leaves for each satellite what its own search does (41_correlator R168). -/
theorem searchAll_searchedRow {ks : List (Fin 24)} (hks : ks.Nodup) {k : Fin 24} (hk : k ∈ ks) (s : State) :
    SearchedRow k (s.bip.get k) (searchAll ks s) := by
  induction ks generalizing s with
  | nil => cases hk
  | cons l ks ih =>
    obtain ⟨hl, hks⟩ := List.nodup_cons.mp hks
    rw [searchAll_cons]
    rcases List.mem_cons.mp hk with rfl | hk
    · obtain ⟨hbip, hres⟩ := searchAll_other ks k hl (searchSat k s)
      rw [SearchedRow, hbip, hres]
      exact searchSat_searchedRow k s
    · have hlk : l ≠ k := fun e => hl (e ▸ hk)
      rw [← (searchSat_other l k hlk s).1]
      exact ih hks hk (searchSat l s)

theorem acqDone_searchedRow (k : Fin 24) (s : State) : SearchedRow k (s.bip.get k) (acqDone s) := by
  rw [SearchedRow, acqDone_res, acqDone_bip]
  exact searchAll_searchedRow (List.nodup_finRange 24) (List.mem_finRange k) (clearResults s)

/-! ### The form of results and records -/

/-- The form of a result register: no bit and no offset where not FOUND, an offset in 0..1022 (10_state R30). -/
def ResultForm (r : Result) : Prop := (r.status ≠ .found → r.bit = false ∧ r.offset = 0) ∧ r.offset.toNat ≤ 1022

/-- Every result register and every record of the log has its form (10_state R30, R31). -/
def RecordsInv (s : State) : Prop := (∀ k, ResultForm (s.res.get k)) ∧ LogInv s

theorem resultForm_none : ResultForm Result.none := ⟨fun _ => ⟨rfl, rfl⟩, by decide⟩

theorem resultForm_nosync : ResultForm Result.nosync := ⟨fun _ => ⟨rfl, rfl⟩, by decide⟩

theorem resultForm_found (bit : Bool) {d : BitVec 10} (hd : d.toNat < 1023) : ResultForm ⟨.found, bit, d⟩ :=
  ⟨fun h => absurd rfl h, Nat.le_of_lt_succ hd⟩

theorem resultForm_set {s : State} {r : Result} (k : Fin 24) (hr : ResultForm r) (h : ∀ l, ResultForm (s.res.get l))
    (l : Fin 24) : ResultForm ((s.res.set k r).get l) := by
  rw [Tab.get_set]
  split
  · exact hr
  · exact h l

theorem recordsInv_emitFound {k : Fin 24} {bit : Bool} {d : BitVec 10} {s : State} (hd : d.toNat < 1023)
    (h : RecordsInv s) : RecordsInv (emitFound k bit d s) := by
  obtain ⟨hres, hlog⟩ := h
  refine ⟨resultForm_set k (resultForm_found bit hd) hres, fun r hr => ?_⟩
  rw [emitFound_detlog, List.mem_append, List.mem_singleton] at hr
  rcases hr with hr | rfl
  · exact hlog r hr
  · exact ⟨Nat.le_add_left 1 k, k.isLt, Nat.le_of_lt_succ hd⟩

theorem recordsInv_markNosync {k : Fin 24} {s : State} (h : RecordsInv s) : RecordsInv (markNosync k s) :=
  ⟨resultForm_set k resultForm_nosync h.1, h.2⟩

theorem recordsInv_clearResults {s : State} (h : RecordsInv s) : RecordsInv (clearResults s) :=
  ⟨fun k => by rw [clearResults_res, Tab.get_const]; exact resultForm_none, h.2⟩

theorem recordsInv_search {k : Fin 24} (n : Nat) {d : Nat} {s : State} (hd : d + n = 1023) (h : RecordsInv s) :
    RecordsInv (search k n d s) := by
  induction n generalizing d s with
  | zero => exact recordsInv_markNosync h
  | succ n ih =>
    rw [search]
    split
    · exact recordsInv_emitFound (by rw [toNat_offset (by omega)]; omega) h
    · exact ih (by omega) h

theorem recordsInv_acqDone {s : State} (h : RecordsInv s) : RecordsInv (acqDone s) := by
  have hall : RecordsInv (searchAll (List.finRange 24) (clearResults s)) :=
    searchAll_keeps (fun s t => RecordsInv s → RecordsInv t) (fun _ h => h) (fun _ _ _ hab hbc h => hbc (hab h))
      (fun _ _ => recordsInv_search 1023 (Nat.zero_add 1023)) _ _ (recordsInv_clearResults h)
  rw [RecordsInv, LogInv, acqDone_res, acqDone_detlog]
  exact hall

/-! ### What a micro-operation does to the search -/

/-- The search is where it was: the same satellite and offset, the same results, records and tables. -/
def SameSearch (s t : State) : Prop :=
  t.phase = s.phase ∧ t.ctrS = s.ctrS ∧ t.ctrD = s.ctrD ∧ t.res = s.res ∧ t.detlog = s.detlog ∧ t.chip = s.chip ∧
    t.bip = s.bip ∧ t.tap = s.tap

theorem SameSearch.refl (s : State) : SameSearch s s := ⟨rfl, rfl, rfl, rfl, rfl, rfl, rfl, rfl⟩

theorem afterMac_sameSearch (j : Fin 1023) (s : State) : SameSearch s (afterMac j s) := by
  unfold afterMac
  split <;> exact .refl s

/-- A micro-operation of the correlator leaves the search where it is, goes on to the next offset, or ends the search of
its satellite with a detection or, after the last offset, with NOSYNC (41_correlator R165, R167). -/
theorem micro_search_cases {s t : State} (hp : s.phase = .acqRun) (hpos : PositionInv s) (h : micro s = .next t) :
    ∃ k d, s.ctrS = some k ∧ s.ctrD = some d ∧ d.toNat < 1023 ∧
      (SameSearch s t ∨
        (d.toNat + 1 < 1023 ∧ t = { cRot k s with ctrD := some (d + 1), mop := some .cClr }) ∨
        (∃ bit, t = afterSearch k (emitFound k bit d s)) ∨
        (d.toNat + 1 = 1023 ∧ t = afterSearch k (markNosync k { cRot k s with ctrD := some (d + 1) }))) := by
  obtain ⟨-, ⟨k, hk⟩, ⟨d, hd, hlt⟩, -⟩ := (positionInv_acqRun hp).mp hpos
  refine ⟨k, d, hk, hd, hlt, ?_⟩
  rcases micro_cases h with ⟨hg, -⟩ | ⟨-, h⟩
  · cases hg.symm.trans hp
  rcases h with ⟨-, rfl⟩ | ⟨-, _, j, a, x, c, -, -, -, -, -, rfl⟩ |
    ⟨-, k', d', a, hk', hd', -, ⟨bit, -, rfl⟩ | ⟨-, rfl⟩⟩ | ⟨-, k', d', hk', hd', rfl⟩
  · exact .inl (.refl s)
  · exact .inl (afterMac_sameSearch j _)
  · cases hk.symm.trans hk'
    cases hd.symm.trans hd'
    exact .inr (.inr (.inl ⟨bit, rfl⟩))
  · exact .inl (.refl s)
  · cases hk.symm.trans hk'
    cases hd.symm.trans hd'
    rw [afterRot]
    split
    · exact .inr (.inr (.inr ⟨‹_›, rfl⟩))
    · exact .inr (.inl ⟨by omega, rfl⟩)

/-- The end of a search moves the position and leaves what the search has written. -/
theorem afterSearch_records (k : Fin 24) (s : State) :
    (afterSearch k s).res = s.res ∧ (afterSearch k s).detlog = s.detlog := by
  unfold afterSearch
  split <;> exact ⟨rfl, rfl⟩

end Sys2Proof.Machine
end

section
/-! The result registers and the detection log under every step (10_state R30, R31). -/

namespace Sys2Proof.Machine

open Sys2Proof

/-- What `ResultInv` says beside the form of each register: after an `ACQ` every satellite has a result, during one the
satellites already searched have (41_correlator R169). -/
def ResultProgress (s : State) : Prop :=
  (s.phase = .done → ∀ k, (s.res.get k).status ≠ .none) ∧
    (s.phase = .acqRun → ∀ k l, s.ctrS = some k → l < k → (s.res.get l).status ≠ .none)

theorem resultInv_and_logInv_iff (s : State) : ResultInv s ∧ LogInv s ↔ RecordsInv s ∧ ResultProgress s := by
  simp only [ResultInv, RecordsInv, ResultProgress, ResultForm, forall_and]
  tauto

/-- Outside a search and DONE nothing is said of progress. -/
theorem resultProgress_of_phase {s : State} (h1 : s.phase ≠ .done) (h2 : s.phase ≠ .acqRun) : ResultProgress s :=
  ⟨fun h => absurd h h1, fun h => absurd h h2⟩

theorem resultProgress_acqDone (s : State) : ResultProgress (acqDone s) :=
  ⟨fun _ k => (acqDone_searchedRow k s).1, by simp⟩

/-- A search that starts has no satellite behind it. -/
theorem resultProgress_acqStart (s : State) : ResultProgress (acqStart s) := by
  refine ⟨by simp, fun _ k l hk hl => ?_⟩
  cases hk
  exact absurd hl (Fin.not_lt_zero l)

theorem succSat_le_of_lt {k l m : Fin 24} (h : succSat k = some l) (hm : m < l) : m ≤ k := by
  have := succSat_some h
  omega

theorem le_of_succSat_none {k : Fin 24} (h : succSat k = none) (m : Fin 24) : m ≤ k := by
  have := succSat_none h
  omega

theorem resultProgress_afterSearch {k : Fin 24} {s : State} (hp : s.phase = .acqRun)
    (h : ∀ l, l ≤ k → (s.res.get l).status ≠ .none) : ResultProgress (afterSearch k s) := by
  unfold afterSearch
  split
  · rename_i l hl
    refine ⟨fun hdone => (by cases hp.symm.trans hdone), fun _ k' m hk' hm => ?_⟩
    cases hk'
    exact h m (succSat_le_of_lt hl hm)
  · rename_i hl
    exact ⟨fun _ m => h m (le_of_succSat_none hl m), fun hacq => by cases hacq⟩

/-- With the result of `k` written, every satellite up to `k` has one. -/
theorem status_set_ne_none {s : State} {k : Fin 24} {r : Result} (hr : r.status ≠ .none)
    (h : ∀ l, l < k → (s.res.get l).status ≠ .none) (l : Fin 24) (hl : l ≤ k) :
    ((s.res.set k r).get l).status ≠ .none := by
  rw [Tab.get_set]
  split
  · exact hr
  · exact h l (lt_of_le_of_ne hl (Ne.symm ‹_›))

theorem recordsInv_congr {s t : State} (hres : t.res = s.res) (hlog : t.detlog = s.detlog) (h : RecordsInv s) :
    RecordsInv t := by
  rw [RecordsInv, LogInv, hres, hlog]
  exact h

theorem micro_recordsInv {s t : State} (hpos : PositionInv s) (hr : RecordsInv s) (h : micro s = .next t) :
    RecordsInv t := by
  rcases micro_phase h with ⟨hp, -⟩ | ⟨hp, -⟩
  · obtain ⟨-, hres, hlog, -⟩ := micro_genStep hp h
    exact recordsInv_congr hres hlog hr
  · obtain ⟨k, d, -, -, hd, h⟩ := micro_search_cases hp hpos h
    rcases h with ⟨-, -, -, hres, hlog, -⟩ | ⟨-, rfl⟩ | ⟨bit, rfl⟩ | ⟨-, rfl⟩
    · exact recordsInv_congr hres hlog hr
    · exact hr
    · obtain ⟨hres, hlog⟩ := afterSearch_records k (emitFound k bit d s)
      exact recordsInv_congr hres hlog (recordsInv_emitFound hd hr)
    · obtain ⟨hres, hlog⟩ := afterSearch_records k (markNosync k { cRot k s with ctrD := some (d + 1) })
      exact recordsInv_congr hres hlog (recordsInv_markNosync hr)

theorem micro_resultProgress {s t : State} (hpos : PositionInv s) (hr : ResultProgress s) (h : micro s = .next t) :
    ResultProgress t := by
  rcases micro_phase h with ⟨-, hp | hp⟩ | ⟨hp, -⟩
  · exact resultProgress_of_phase (by simp [hp]) (by simp [hp])
  · exact resultProgress_of_phase (by simp [hp]) (by simp [hp])
  · obtain ⟨k, d, hk, -, -, h⟩ := micro_search_cases hp hpos h
    have hbefore : ∀ l, l < k → (s.res.get l).status ≠ .none := fun l => hr.2 hp k l hk
    rcases h with ⟨hp', hk', -, hres, -⟩ | ⟨-, rfl⟩ | ⟨bit, rfl⟩ | ⟨-, rfl⟩
    · rw [ResultProgress, hp', hk', hres]
      exact hr
    · exact hr
    · exact resultProgress_afterSearch hp (status_set_ne_none (by simp) hbefore)
    · exact resultProgress_afterSearch hp (status_set_ne_none (by decide) hbefore)

/-- Settles O57: the form of each register and record, and the progress of the search, are each kept. -/
theorem resultsKept : Obligations.ResultsKept := by
  intro s t hpos hres hlog h
  rw [resultInv_and_logInv_iff]
  refine step_keeps (fun s => RecordsInv s ∧ ResultProgress s) PositionInv (fun _ _ _ h => h) (fun _ _ _ h => h)
    (fun _ _ h => h) ?reset ?latch (fun _ _ _ _ _ _ h => h) ?gen ?acq ?micro hpos
    ((resultInv_and_logInv_iff s).mp ⟨hres, hlog⟩) h
  case reset =>
    intro s
    exact (resultInv_and_logInv_iff _).mp ⟨(inv_applyReset s).result, (inv_applyReset s).log⟩
  case latch =>
    rintro s e - - - ⟨h, -⟩
    exact ⟨h, resultProgress_of_phase (by simp) (by simp)⟩
  case gen =>
    rintro s - - ⟨h, -⟩
    exact ⟨⟨h, resultProgress_of_phase (by simp) (by simp)⟩, h, resultProgress_of_phase (by simp) (by simp)⟩
  case acq =>
    rintro s - - - ⟨h, -⟩
    have hstart := recordsInv_clearResults h
    exact ⟨fun _ => ⟨recordsInv_acqDone h, resultProgress_acqDone s⟩, hstart, resultProgress_acqStart s⟩
  case micro =>
    rintro s t hpos ⟨hr, hprog⟩ h
    exact ⟨micro_recordsInv hpos hr h, micro_resultProgress hpos hprog h⟩

end Sys2Proof.Machine
end

section
/-! The chip tables under every step (10_state R25, R26, 40_generator R136, 41_correlator R171). -/

namespace Sys2Proof.Machine

open Sys2Proof

/-! ### The generator's progress -/

theorem tablesInv_genRun {s : State} (hp : s.phase = .genRun) :
    TablesInv s ↔ ∀ m k i, s.mop = some m → s.ctrS = some k → s.ctrI = some i → GenProgress m k i s := by
  rw [TablesInv, hp]

/-- At a known micro-operation and element one progress is to be shown. -/
theorem tablesInv_of_genProgress {s : State} {m : MicroOp} {k : Fin 24} {i : Fin 1023} (h : GenProgress m k i s)
    (hp : s.phase = .genRun) (hm : s.mop = some m) (hk : s.ctrS = some k) (hi : s.ctrI = some i) : TablesInv s := by
  rw [tablesInv_genRun hp]
  intro m' k' i' hm' hk' hi'
  cases hm.symm.trans hm'
  cases hk.symm.trans hk'
  cases hi.symm.trans hi'
  exact h

theorem tablesInv_afterChip {k : Fin 24} {i : Fin 1023} {s : State} (hp : s.phase = .genRun)
    (hc : ChipsTo (chipStep k i + 1) s) (hr : RegsAt (chipStep k i + 1) (chipStep k i + 1) s) :
    TablesInv (afterChip k i s) := by
  unfold afterChip
  split
  · rename_i l j hl
    rw [← chipStep_of_succPos hl] at hc hr
    exact tablesInv_of_genProgress (m := .gChip) ⟨hc, hr⟩ hp rfl rfl rfl
  · rename_i hl
    rw [chipStep_of_succPos_none hl] at hc
    exact tablesInv_of_genProgress (m := .gMap) ⟨AgreeTo.eq hc, AgreeTo.first _ _⟩ hp rfl rfl rfl

theorem tablesInv_afterMap {k : Fin 24} {i : Fin 1023} {s : State} (hp : s.phase = .genRun) (hm : s.mop = some .gMap)
    (hc : s.chip = genChip s.tap) (hb : BipsTo (chipStep k i + 1) s) : TablesInv (afterMap k i s) := by
  unfold afterMap
  split
  · rename_i l j hl
    rw [← chipStep_of_succPos hl] at hb
    exact tablesInv_of_genProgress (m := .gMap) ⟨hc, hb⟩ hp hm rfl rfl
  · rename_i hl
    rw [chipStep_of_succPos_none hl] at hb
    exact ⟨hc, (AgreeTo.eq hb).trans (congrArg genBip hc.symm)⟩

/-- `g_chip` at step `n` writes the chip of a completed run (40_generator R132). -/
theorem chipBit_of_regsAt {s : State} {k : Fin 24} {i : Fin 1023} {x y : ShiftReg}
    (hr : RegsAt (chipStep k i) (chipStep k i) s) (hx : s.top = some x) (hy : s.bot = some y) :
    some (chipBit (s.tap.get k) x y) = read2 (genChip s.tap) k i := by
  obtain ⟨hx', hy'⟩ := hr
  cases hx.symm.trans hx'
  cases hy.symm.trans hy'
  exact (genChip_read s.tap k i).symm

theorem micro_tablesInv_genRun {s t : State} (hp : s.phase = .genRun) (hpos : PositionInv s) (htab : TablesInv s)
    (h : micro s = .next t) : TablesInv t := by
  have hprog := (tablesInv_genRun hp).mp htab
  have hg := (positionInv_genRun hp).mp hpos
  rcases micro_cases h with ⟨-, h⟩ | ⟨ha, -⟩
  · rcases h with ⟨-, rfl⟩ | ⟨hm, k, i, x, y, hk, hi, hx, hy, rfl⟩ | ⟨hm, x, hx, rfl⟩ |
      ⟨hm, k, i, y, hk, hi, hy, rfl⟩ | ⟨hm, k, i, c, hk, hi, hc, rfl⟩
    · exact tablesInv_of_genProgress (m := .gChip) ⟨AgreeTo.first _ _, rfl, rfl⟩ hp rfl rfl rfl
    · obtain ⟨hchips, hregs⟩ := hprog _ _ _ hm hk hi
      rw [chipBit_of_regsAt hregs hx hy]
      exact tablesInv_of_genProgress (m := .gTop) ⟨AgreeTo.write_next hchips, hregs⟩ hp rfl hk hi
    · obtain ⟨⟨k, hk⟩, ⟨i, hi⟩, -⟩ := genPosition_written hg hm (by decide)
      obtain ⟨hchips, hx', hy⟩ := hprog _ _ _ hm hk hi
      cases hx.symm.trans hx'
      rw [← regAfter_succ topNext]
      exact tablesInv_of_genProgress (m := .gBot) ⟨hchips, rfl, hy⟩ hp rfl hk hi
    · obtain ⟨hchips, hx, hy'⟩ := hprog _ _ _ hm hk hi
      cases hy.symm.trans hy'
      rw [← regAfter_succ botNext]
      exact tablesInv_afterChip hp hchips ⟨hx, rfl⟩
    · obtain ⟨hchip, hbips⟩ := hprog _ _ _ hm hk hi
      have hwrite : some (bip c) = read2 (genBip (genChip s.tap)) k i := by
        rw [genBip_read, ← hchip, hc, Option.map_some]
      rw [hwrite]
      exact tablesInv_afterMap hp hm hchip (AgreeTo.write_next hbips)
  · cases ha.symm.trans hp

/-! ### The correlator's rows -/

/-- A search of satellite `k` at the offset `d`: its row is rotated by `d`, those before it by what their results report,
those after it not at all (41_correlator R166, R171). -/
def RowsInSearch (k : Fin 24) (d : Nat) (s : State) : Prop :=
  s.chip = genChip s.tap ∧ RowRotated d k s ∧ (∀ l, l < k → RowRotated (shiftOf (s.res.get l)) l s) ∧
    ∀ l, k < l → RowRotated 0 l s

theorem tablesInv_of_rowsInSearch {s : State} {k : Fin 24} {d : BitVec 10} (h : RowsInSearch k d.toNat s)
    (hp : s.phase = .acqRun) (hk : s.ctrS = some k) (hd : s.ctrD = some d) : TablesInv s := by
  obtain ⟨hchip, hrows⟩ := h
  rw [TablesInv, hp]
  refine ⟨hchip, fun k' d' hk' hd' => ?_⟩
  cases hk.symm.trans hk'
  cases hd.symm.trans hd'
  exact hrows

theorem rowsInSearch_of_tablesInv {s : State} {k : Fin 24} {d : BitVec 10} (h : TablesInv s)
    (hp : s.phase = .acqRun) (hk : s.ctrS = some k) (hd : s.ctrD = some d) : RowsInSearch k d.toNat s := by
  rw [TablesInv, hp] at h
  obtain ⟨hchip, hrows⟩ := h
  exact ⟨hchip, hrows k d hk hd⟩

theorem RowsInSearch.cRot {k : Fin 24} {d : Nat} {s : State} (h : RowsInSearch k d s) :
    RowsInSearch k (d + 1) (cRot k s) := by
  obtain ⟨hchip, hk, hlt, hgt⟩ := h
  have hother : ∀ l, k ≠ l → (Machine.cRot k s).bip.get l = s.bip.get l := fun l hl => Tab.get_set_ne _ _ hl
  refine ⟨hchip, isRotr_cRot hk, fun l hl => ?_, fun l hl => ?_⟩
  · rw [RowRotated, hother l hl.ne']
    exact hlt l hl
  · rw [RowRotated, hother l hl.ne]
    exact hgt l hl

/-- The rows when the search of satellite `k` is over: those up to `k` searched, those after it canonical. -/
def RowsSearched (k : Fin 24) (s : State) : Prop :=
  s.chip = genChip s.tap ∧ (∀ l, l ≤ k → RowRotated (shiftOf (s.res.get l)) l s) ∧ ∀ l, k < l → RowRotated 0 l s

/-- A step that ends the search of `k`, writing the result of `k` alone. -/
theorem RowsInSearch.searched {k : Fin 24} {d : Nat} {s t : State} (h : RowsInSearch k d s) (hchip : t.chip = s.chip)
    (htap : t.tap = s.tap) (hbip : t.bip = s.bip) (hres : ∀ l, k ≠ l → t.res.get l = s.res.get l)
    (hk : SearchedRow k ((genBip (genChip s.tap)).get k) t) : RowsSearched k t := by
  obtain ⟨hc, -, hlt, hgt⟩ := h
  refine ⟨by rw [hchip, htap, hc], fun l hl => ?_, fun l hl => ?_⟩
  · rcases eq_or_lt_of_le hl with rfl | hl
    · rw [RowRotated, htap]
      exact hk.2
    · rw [RowRotated, hres l hl.ne', hbip, htap]
      exact hlt l hl
  · rw [RowRotated, hbip, htap]
    exact hgt l hl

theorem RowsInSearch.emitFound {k : Fin 24} {d : BitVec 10} {s : State} (bit : Bool) (h : RowsInSearch k d.toNat s) :
    RowsSearched k (emitFound k bit d s) := by
  have ⟨_, hk, _⟩ := h
  exact h.searched rfl rfl rfl (fun _ hl => Tab.get_set_ne _ _ hl) (searchedRow_emitFound hk)

theorem RowsInSearch.markNosync {k : Fin 24} {s : State} (h : RowsInSearch k 1023 s) :
    RowsSearched k (markNosync k s) := by
  have ⟨_, hk, _⟩ := h
  exact h.searched rfl rfl rfl (fun _ hl => Tab.get_set_ne _ _ hl) (searchedRow_markNosync hk)

/-- Once satellite `k` is searched, the next one's search starts at offset 0, and after the last the rows are those of
DONE. -/
theorem tablesInv_afterSearch {k : Fin 24} {s : State} (hp : s.phase = .acqRun) (h : RowsSearched k s) :
    TablesInv (afterSearch k s) := by
  obtain ⟨hchip, hle, hgt⟩ := h
  unfold afterSearch
  split
  · rename_i l hl
    have hkl : k < l := by
      have := succSat_some hl
      omega
    exact tablesInv_of_rowsInSearch (k := l) (d := 0)
      ⟨hchip, hgt l hkl, fun m hm => hle m (succSat_le_of_lt hl hm), fun m hm => hgt m (hkl.trans hm)⟩ hp rfl rfl
  · rename_i hl
    exact ⟨hchip, fun l => hle l (le_of_succSat_none hl l)⟩

theorem micro_tablesInv_acqRun {s t : State} (hp : s.phase = .acqRun) (hpos : PositionInv s) (htab : TablesInv s)
    (h : micro s = .next t) : TablesInv t := by
  obtain ⟨k, d, hk, hd, hlt, h⟩ := micro_search_cases hp hpos h
  have hrows := rowsInSearch_of_tablesInv htab hp hk hd
  rcases h with ⟨hp', hk', hd', hres, -, hchip, hbip, htap⟩ | ⟨hnext, rfl⟩ | ⟨bit, rfl⟩ | ⟨hlast, rfl⟩
  · refine tablesInv_of_rowsInSearch ?_ (hp'.trans hp) (hk'.trans hk) (hd'.trans hd)
    simp only [RowsInSearch, RowRotated, hres, hchip, hbip, htap]
    exact hrows
  · have hrot := hrows.cRot
    rw [← toNat_succ_offset (by omega)] at hrot
    exact tablesInv_of_rowsInSearch hrot hp hk rfl
  · exact tablesInv_afterSearch hp (hrows.emitFound bit)
  · have hrot := hrows.cRot
    rw [hlast] at hrot
    exact tablesInv_afterSearch hp hrot.markNosync

/-! ### Every step -/

theorem tablesInv_acqStart {s : State} (hp : s.phase = .ready) (h : TablesInv s) : TablesInv (acqStart s) := by
  rw [TablesInv, hp] at h
  obtain ⟨hchip, hbip⟩ := h
  have hrow : ∀ l, RowRotated 0 l s := fun l => by
    rw [RowRotated, hbip, hchip]
    exact isRotr_zero _
  exact tablesInv_of_rowsInSearch (k := 0) (d := 0)
    ⟨hchip, hrow 0, fun l hl => absurd hl (Fin.not_lt_zero l), fun l _ => hrow l⟩ rfl rfl rfl

theorem tablesInv_acqDone {s : State} (hp : s.phase = .ready) (h : TablesInv s) : TablesInv (acqDone s) := by
  rw [TablesInv, hp] at h
  obtain ⟨hchip, hbip⟩ := h
  obtain ⟨-, -, hchip', -, -, -, -, htap, -⟩ := acqDone_same s
  rw [TablesInv, acqDone_phase]
  refine ⟨by rw [hchip', htap, hchip], fun l => ?_⟩
  rw [RowRotated, htap, ← hchip, ← hbip]
  exact (acqDone_searchedRow l s).2

/-- Settles O58: `GEN` writes the canonical tables element by element, and `ACQ` rotates each row by the offset its result
reports. -/
theorem tablesKept : Obligations.TablesKept := by
  intro s t hs h
  refine step_keeps TablesInv PositionInv (fun _ _ _ h => h) (fun _ _ _ h => h) (fun _ _ h => h)
    (fun s => (inv_applyReset s).tables) (fun _ _ _ _ _ _ => trivial) (fun _ _ _ _ _ _ h => h) ?gen ?acq ?micro
    hs.position hs.tables h
  case gen =>
    intro s _ _ _
    refine ⟨⟨rfl, rfl⟩, (tablesInv_genRun rfl).mpr fun m k i hm _ _ => ?_⟩
    cases hm
    exact trivial
  case acq =>
    intro s hp _ _ h
    exact ⟨fun _ => tablesInv_acqDone hp h, tablesInv_acqStart hp h⟩
  case micro =>
    intro s t hpos h hm
    rcases micro_phase hm with ⟨hp, -⟩ | ⟨hp, -⟩
    · exact micro_tablesInv_genRun hp hpos h hm
    · exact micro_tablesInv_acqRun hp hpos h hm

end Sys2Proof.Machine
end

section
/-! The status word: its fields and its value after reset (10_state R34, R39). -/

namespace Sys2Proof.Machine

open Sys2Proof

/-- The cells of an array, in the order of its indices. -/
theorem cells_eq_ofFn {α : Type} {n : Nat} (t : Tab α n) : t.cells = List.ofFn t.get := by
  refine List.ext_getElem (by rw [t.size_eq, List.length_ofFn]) fun i _ _ => ?_
  rw [List.getElem_ofFn]
  rfl

/-- `NDET` counts the satellites whose status is FOUND, each once (10_state R34). -/
theorem ndet_eq_card (s : State) : ndet s = (Finset.univ.filter fun k => (s.res.get k).status = .found).card := by
  rw [ndet, cells_eq_ofFn, ← Multiset.coe_countP, ← Fin.univ_val_map, Multiset.countP_map]
  rfl

theorem phaseCode_le (p : Phase) : phaseCode p ≤ 5 := by cases p <;> decide

theorem errCode_le (e : Err) : errCode e ≤ 7 := by cases e <;> decide

theorem bitNat_le (b : Bool) : bitNat b ≤ 1 := by cases b <;> decide

/-- The fields of `STAT` do not run into one another (10_state R34). -/
theorem statWord_fields (s : State) :
    bits (statWord s) 2 0 = phaseCode s.phase ∧ bits (statWord s) 6 3 = errCode s.err ∧
      bits (statWord s) 7 7 = bitNat (sfull s) ∧ bits (statWord s) 12 8 = ndet s ∧ bits (statWord s) 31 13 = 0 := by
  have hphase := phaseCode_le s.phase
  have herr := errCode_le s.err
  have hfull := bitNat_le (sfull s)
  have hdet := ndet_le s
  simp only [bits, statWord, BitVec.toNat_ofNat]
  omega

theorem sfull_eq_false {s : State} {i : Fin 1023} (h : s.svalid.get i = false) : sfull s = false := by
  rw [Bool.eq_false_iff, ne_eq, sfull_iff]
  intro hall
  cases h.symm.trans (hall i)

theorem ndet_reset : ndet State.reset = 0 := by
  rw [ndet_eq_card, Finset.card_eq_zero, Finset.filter_eq_empty_iff]
  intro k _
  simp [Result.none]

theorem statWord_reset : statWord State.reset = 0#32 := by
  have hfull : sfull State.reset = false := sfull_eq_false (i := 0) (by simp)
  rw [statWord, hfull, ndet_reset]
  rfl

/-- Settles O24: each field of `STAT` is read back from its own bits. -/
theorem rdstatRespondsStatus : Obligations.RdstatRespondsStatus := by
  intro s
  obtain ⟨hphase, herr, hfull, hdet, hrest⟩ := statWord_fields s
  refine ⟨fun hb => inAnyPhase_rest _ hb, hphase, herr, fun hall => ?_, fun i hi => ?_, ?_, hrest, statWord_reset⟩
  · rw [hfull, (sfull_iff s).mpr hall]
    rfl
  · rw [hfull, sfull_eq_false hi]
    rfl
  · rw [hdet, ndet_eq_card]

/-- Settles O9: the fields of the reset state, one by one, and its status word. -/
theorem resetValues : Obligations.ResetValues :=
  ⟨rfl, rfl, fun _ => Tab.get_const _ _, fun _ => Tab.get_const _ _, rfl, statWord_reset⟩

end Sys2Proof.Machine
end

section
/-! What an `ACQ` puts on the detection log and the detection port: the records of the satellites it finds, satellite
after satellite (41_correlator R165, R168, 20_memory R71). -/

namespace Sys2Proof.Machine

open Sys2Proof

/-- From `s` to `t` the log and the detection port have each grown by the records `rs`, in that order. -/
def Emits (rs : List DetRecord) (s t : State) : Prop :=
  t.detlog = s.detlog ++ rs ∧ t.det = s.det ++ rs.map detWord

theorem Emits.trans {rs us : List DetRecord} {s t u : State} (hst : Emits rs s t) (htu : Emits us t u) :
    Emits (rs ++ us) s u := by
  obtain ⟨hlog, hdet⟩ := hst
  obtain ⟨hlog', hdet'⟩ := htu
  exact ⟨by rw [hlog', hlog, List.append_assoc], by rw [hdet', hdet, List.map_append, List.append_assoc]⟩

/-- The search of a satellite emits the record of the result it leaves, and none where that is not FOUND. -/
theorem search_emits (k : Fin 24) (n d : Nat) (s : State) :
    Emits (recordOf k ((search k n d s).res.get k)).toList s (search k n d s) := by
  induction n generalizing d s with
  | zero =>
    have hnone : recordOf k Result.nosync = none := rfl
    rw [search, markNosync_res, Tab.get_set_self, hnone]
    exact ⟨(List.append_nil _).symm, (List.append_nil _).symm⟩
  | succ n ih =>
    rw [search]
    split
    next bit _ =>
      have hfound : recordOf k ⟨.found, bit, BitVec.ofNat 10 d⟩ = some ⟨satId k, bit, BitVec.ofNat 10 d⟩ := rfl
      rw [emitFound_res, Tab.get_set_self, hfound]
      exact ⟨rfl, rfl⟩
    next => exact ih (d + 1) (cRot k (cDot k s))

/-- The satellite loop emits the records of the satellites in the order it searches them: a search leaves the results of
the satellites before it as they are. -/
theorem searchAll_emits {ks : List (Fin 24)} (hks : ks.Nodup) (s : State) :
    Emits (ks.filterMap fun k => recordOf k ((searchAll ks s).res.get k)) s (searchAll ks s) := by
  rw [List.filterMap_eq_flatMap_toList]
  induction ks generalizing s with
  | nil => exact ⟨(List.append_nil _).symm, (List.append_nil _).symm⟩
  | cons k ks ih =>
    obtain ⟨hk, hks⟩ := List.nodup_cons.mp hks
    rw [searchAll_cons, List.flatMap_cons, (searchAll_other ks k hk (searchSat k s)).2]
    exact (search_emits k 1023 0 s).trans (ih hks (searchSat k s))

/-- A whole run of the correlator emits the records of its results, in increasing index (41_correlator R169). -/
theorem acqDone_emits (s : State) :
    Emits ((List.finRange 24).filterMap fun k => recordOf k ((acqDone s).res.get k)) s (acqDone s) := by
  rw [Emits, acqDone_res, acqDone_detlog, acqDone_det]
  exact searchAll_emits (List.nodup_finRange 24) (clearResults s)

/-- Settles O35: an `ACQ` that ends in DONE is a whole run of the correlator, and that emits the records of its results. -/
theorem detectionsInOrder : Obligations.DetectionsInOrder := by
  intro s t hready hnoReset h hdone
  rcases execAcq_next h with ⟨hfault, -⟩ | ⟨hidle | hdone', -⟩ | ⟨-, ⟨-, rfl⟩ | ⟨-, ⟨-, -, rfl⟩ | ⟨hreset, -⟩⟩⟩
  · cases hready.symm.trans hfault
  · cases hready.symm.trans hidle
  · cases hready.symm.trans hdone'
  · cases hdone
  · simp only [respond_detlog, respond_det, respond_res]
    exact acqDone_emits s
  · exact absurd hnoReset hreset

end Sys2Proof.Machine
end

section
/-! What `NOP` and the six reads leave unchanged (20_memory R65, 10_state R41). -/

namespace Sys2Proof.Machine

open Sys2Proof

/-- Nothing is changed but the response port, and by error entry `PHASE` and `ERR`. -/
def SameButResponse (s t : State) : Prop :=
  SameRegisters s t ∧ SameTables s t ∧ SameSamples s t ∧ SameHost s t ∧ SameOrError s t

theorem sameButResponse_respond (w : Word) (s : State) : SameButResponse s (respond w s) := by
  simp [SameButResponse, SameRegisters, SameTables, SameSamples, SameHost, SameOrError]

/-- Error entry keeps an error already latched (60_exceptions R229). -/
theorem sameButResponse_latch (w : Word) (e : Err) (s : State) : SameButResponse s (respond w (latch e s)) := by
  have herr : s.err ≠ .none → (latch e s).err = s.err := fun h => if_neg h
  have horError : SameOrError s (respond w (latch e s)) := .inr ⟨rfl, herr⟩
  simp [SameButResponse, SameRegisters, SameTables, SameSamples, SameHost, horError]

/-- A command that is none of the four that write answers with a response alone or with error entry. -/
theorem exec_sameButResponse {i : Instr} {s t : State} (hrst : i ≠ .rst) (hlds : ∀ k v, i ≠ .lds k v) (hgen : i ≠ .gen)
    (hacq : i ≠ .acq) (h : exec i s = .next t) : SameButResponse s t := by
  obtain ⟨-, ⟨w, rfl⟩ | ⟨e, -, -, -, rfl⟩ | ⟨hi, -⟩ | ⟨-, k, v, hi, -⟩ | ⟨-, hi, -⟩ | ⟨-, hi, -⟩⟩ := exec_effect h
  · exact sameButResponse_respond w s
  · exact sameButResponse_latch (errWord e) e s
  · exact absurd hi hrst
  · exact absurd hi (hlds k v)
  · exact absurd hi hgen
  · exact absurd hi hacq

/-- Settles O48: `NOP` and the six reads are none of the four commands that write. -/
theorem readsFrame : Obligations.ReadsFrame := by
  intro i n j s t hi h
  rcases hi with rfl | rfl | rfl | rfl | rfl | rfl | rfl <;>
    exact exec_sameButResponse (by simp) (by simp) (by simp) (by simp) h

end Sys2Proof.Machine
end

section
/-! The decoder field by field: which words decode to a command, and that the encoder inverts it (30_encoding R91 to
R97, R102). -/

namespace Sys2Proof

/-! ### Sample values in five bits -/

theorem sext5_tc5 {v : Int} (h : valFits v = true) : sext5 (tc 5 v) = v := by
  simp only [valFits, Bool.and_eq_true, decide_eq_true_eq] at h
  unfold sext5 tc
  split <;> omega

theorem tc5_sext5 {p : Nat} (h : p < 32) : tc 5 (sext5 p) = p := by
  unfold sext5 tc
  split <;> omega

theorem valFits_sext5 {p : Nat} (h : p < 32) : valFits (sext5 p) = true := by
  simp only [valFits, Bool.and_eq_true, decide_eq_true_eq]
  unfold sext5
  split <;> omega

theorem bits_lt (w : Word) (hi lo : Nat) : bits w hi lo < 2 ^ (hi + 1 - lo) := Nat.mod_lt _ (Nat.two_pow_pos _)

/-! ### What the decoder answers -/

/-- The operand fields of `w` hold the operands of the command, and the reserved bits of its format are zero
(30_encoding R92 to R97). -/
def CarriesOperands (w : Word) : Instr → Prop
  | .nop => bits w 27 0 = 0
  | .rst => bits w 27 0 = 0
  | .lds i val => bits w 9 0 = i ∧ sext5 (bits w 20 16) = val ∧ bits w 15 10 = 0 ∧ bits w 27 21 = 0
  | .gen => bits w 27 0 = 0
  | .acq => bits w 27 0 = 0
  | .rdstat => bits w 27 0 = 0
  | .rdr s => bits w 4 0 = s ∧ bits w 27 5 = 0
  | .rdc s i => bits w 14 10 = s ∧ bits w 9 0 = i ∧ bits w 27 15 = 0
  | .rdb s i => bits w 14 10 = s ∧ bits w 9 0 = i ∧ bits w 27 15 = 0
  | .rds i => bits w 9 0 = i ∧ bits w 27 10 = 0
  | .rdt s => bits w 4 0 = s ∧ bits w 27 5 = 0

theorem reserved_eq_ok {bad : Nat} {i j : Instr} : reserved bad i = .ok j ↔ bad = 0 ∧ i = j := by
  unfold reserved
  split <;> simp [*]

/-- A command is decoded where its opcode stands in `w[31:28]`, its operands in their fields and zeros elsewhere. -/
theorem decode_eq_ok_iff {w : Word} {i : Instr} :
    decode w = .ok i ↔ bits w 31 28 = opcode i ∧ CarriesOperands w i := by
  constructor
  · intro h
    unfold decode at h
    split at h
    case h_12 => cases h
    all_goals
      obtain ⟨hzero, rfl⟩ := reserved_eq_ok.mp h
      exact ⟨‹_›, by simpa [CarriesOperands] using hzero⟩
  · rintro ⟨hop, hfields⟩
    cases i <;>
      · simp only [opcode, CarriesOperands] at hop hfields
        simp [decode, hop, decodeN, decodeS, decodeSI, decodeI, decodeIV, reserved, hfields]

/-! ### The encoder -/

theorem opcode_encode {i : Instr} (h : i.WellFormed) : bits (encode i) 31 28 = opcode i := by
  cases i with
  | nop => exact Laws.OpcodeField.nop h
  | rst => exact Laws.OpcodeField.rst h
  | lds i val => exact Laws.OpcodeField.lds i val h
  | gen => exact Laws.OpcodeField.gen h
  | acq => exact Laws.OpcodeField.acq h
  | rdstat => exact Laws.OpcodeField.rdstat h
  | rdr s => exact Laws.OpcodeField.rdr s h
  | rdc s i => exact Laws.OpcodeField.rdc s i h
  | rdb s i => exact Laws.OpcodeField.rdb s i h
  | rds i => exact Laws.OpcodeField.rds i h
  | rdt s => exact Laws.OpcodeField.rdt s h

theorem carriesOperands_encode {i : Instr} (h : i.WellFormed) : CarriesOperands (encode i) i := by
  cases i with
  | lds i val =>
    simp only [Instr.WellFormed, Instr.wf, indexFits, Bool.and_eq_true, decide_eq_true_eq] at h
    obtain ⟨hi, hv⟩ := h
    have hlt := Laws.OpcodeField.tc5_lt val
    have hval : bits (encode (.lds i val)) 20 16 = tc 5 val := by
      simp only [bits, encode, opcode, operandBits, BitVec.toNat_ofNat]
      omega
    refine ⟨?_, by rw [hval, sext5_tc5 hv], ?_, ?_⟩ <;>
      simp only [bits, encode, opcode, operandBits, BitVec.toNat_ofNat] <;> omega
  | _ =>
    simp only [Instr.WellFormed, Instr.wf, indexFits, satFits, Bool.and_eq_true, decide_eq_true_eq] at h
    simp only [CarriesOperands, bits, encode, opcode, operandBits, BitVec.toNat_ofNat]
    omega

/-- The operands of a command read from a word fit the fields they are read from. -/
theorem CarriesOperands.wellFormed {w : Word} {i : Instr} (h : CarriesOperands w i) : i.WellFormed := by
  have hindex : indexFits (bits w 9 0) = true := decide_eq_true (Nat.le_of_lt_succ (bits_lt w 9 0))
  have hsat : satFits (bits w 4 0) = true := decide_eq_true (Nat.le_of_lt_succ (bits_lt w 4 0))
  have hsat' : satFits (bits w 14 10) = true := decide_eq_true (Nat.le_of_lt_succ (bits_lt w 14 10))
  cases i with
  | nop | rst | gen | acq | rdstat => rfl
  | lds i val =>
    obtain ⟨rfl, rfl, -, -⟩ := h
    exact Bool.and_eq_true_iff.mpr ⟨hindex, valFits_sext5 (bits_lt w 20 16)⟩
  | rdr s | rdt s =>
    obtain ⟨rfl, -⟩ := h
    exact hsat
  | rdc s i | rdb s i =>
    obtain ⟨rfl, rfl, -⟩ := h
    exact Bool.and_eq_true_iff.mpr ⟨hsat', hindex⟩
  | rds i =>
    obtain ⟨rfl, -⟩ := h
    exact hindex

/-- The opcode and the operands make up the whole word. -/
theorem encode_of_fields {w : Word} {i : Instr} (hop : bits w 31 28 = opcode i) (h : CarriesOperands w i) :
    encode i = w := by
  have hw := w.isLt
  apply BitVec.eq_of_toNat_eq
  cases i with
  | lds i val =>
    obtain ⟨rfl, rfl, hgap, htop⟩ := h
    simp only [encode, operandBits, tc5_sext5 (bits_lt w 20 16), BitVec.toNat_ofNat]
    simp only [bits, opcode] at *
    omega
  | _ =>
    simp only [CarriesOperands, encode, operandBits, BitVec.toNat_ofNat, bits, opcode] at *
    omega

/-- Settles O1: the encoder puts the opcode and every operand where the decoder reads them. -/
theorem decodeOfEncode : Obligations.DecodeOfEncode := fun _ h =>
  decode_eq_ok_iff.mpr ⟨opcode_encode h, carriesOperands_encode h⟩

/-- Settles O2: the fields the decoder reads make up the whole word, and each operand fits its field. -/
theorem encodeOfDecode : Obligations.EncodeOfDecode := fun _ _ h => by
  obtain ⟨hop, hfields⟩ := decode_eq_ok_iff.mp h
  exact ⟨hfields.wellFormed, encode_of_fields hop hfields⟩

/-- Settles O5: the examples are well-formed and encode to their words; decoding them is then the round trip. -/
theorem workedEncodings : Obligations.WorkedEncodings := by
  intro p hp
  have hencode : p.1.WellFormed ∧ encode p.1 = p.2 := by
    revert p
    decide
  exact ⟨hencode.2 ▸ decodeOfEncode p.1 hencode.1, hencode.2⟩

end Sys2Proof
end

section
/-! The opcode map: what the mask of a row selects, and which words are commands, reserved-opcode words and reserved-bits
words (30_encoding R98 to R101). -/

namespace Sys2Proof

/-! ### Masks -/

/-- The mask of the field `[hi:lo]`. -/
def fieldMask (hi lo : Nat) : Word := BitVec.ofNat 32 ((2 ^ (hi + 1 - lo) - 1) <<< lo)

theorem testBit_bits (w : Word) (hi lo j : Nat) :
    (bits w hi lo).testBit j = (decide (j < hi + 1 - lo) && w.getLsbD (j + lo)) := by
  rw [bits, Nat.testBit_mod_two_pow, Nat.testBit_div_two_pow, BitVec.getLsbD]

theorem getLsbD_fieldMask {hi lo j : Nat} (hj : j < 32) :
    (fieldMask hi lo).getLsbD j = (decide (lo ≤ j) && decide (j - lo < hi + 1 - lo)) := by
  rw [fieldMask, BitVec.getLsbD_ofNat, Nat.testBit_shiftLeft, Nat.testBit_two_pow_sub_one, decide_eq_true hj,
    Bool.true_and]

/-- Two words agree under a field's mask exactly where the field is the same in both. -/
theorem and_fieldMask_eq_iff {w a : Word} {hi lo : Nat} :
    w &&& fieldMask hi lo = a &&& fieldMask hi lo ↔ bits w hi lo = bits a hi lo := by
  constructor
  · intro h
    apply Nat.eq_of_testBit_eq
    intro j
    rw [testBit_bits, testBit_bits]
    rcases Nat.lt_or_ge (j + lo) 32 with hj | hj
    · have hbit := congrArg (·.getLsbD (j + lo)) h
      simp only [BitVec.getLsbD_and, getLsbD_fieldMask hj] at hbit
      grind
    · simp [BitVec.getLsbD_of_ge _ _ hj]
  · intro h
    apply BitVec.eq_of_getLsbD_eq
    intro j hj
    have hbit := congrArg (·.testBit (j - lo)) h
    simp only [testBit_bits] at hbit
    rw [BitVec.getLsbD_and, BitVec.getLsbD_and, getLsbD_fieldMask hj]
    grind

theorem and_or_eq_iff {w a m n : Word} : w &&& (m ||| n) = a &&& (m ||| n) ↔ w &&& m = a &&& m ∧ w &&& n = a &&& n := by
  simp only [BitVec.eq_of_getLsbD_eq_iff, BitVec.getLsbD_and, BitVec.getLsbD_or]
  grind

theorem OpcodeRow.encodes_iff {r : OpcodeRow} (hr : r.word &&& r.mask = r.word) (w : Word) :
    r.encodes w = true ↔ w &&& r.mask = r.word &&& r.mask := by
  rw [hr]
  exact decide_eq_true_iff

/-! ### Rows of the map and the decoder -/

/-- A word with the opcode of a row, where the row's mask is that of the opcode and of the bits `n` besides, and these are
clear where `bad` is zero. -/
theorem reserved_of_mask {r : OpcodeRow} {w n : Word} {bad : Nat} {i : Instr} (hword : r.word &&& r.mask = r.word)
    (hmask : r.mask = fieldMask 31 28 ||| n) (hop : bits w 31 28 = bits r.word 31 28)
    (hn : w &&& n = r.word &&& n ↔ bad = 0) : reserved bad i = if r.encodes w then .ok i else .error .field := by
  have hbad : r.encodes w = true ↔ bad = 0 := by
    rw [OpcodeRow.encodes_iff hword, hmask, and_or_eq_iff, and_fieldMask_eq_iff, hn]
    exact and_iff_right hop
  simp only [reserved, hbad]

/-- The formats N, S, SI and I: the reserved bits are one field, from bit 27 down (30_encoding R92 to R95). -/
theorem reserved_of_row {r : OpcodeRow} {w : Word} {lo : Nat} {i : Instr} (hword : r.word &&& r.mask = r.word)
    (hmask : r.mask = fieldMask 31 28 ||| fieldMask 27 lo) (hop : bits w 31 28 = bits r.word 31 28)
    (hzero : bits r.word 27 lo = 0) : reserved (bits w 27 lo) i = if r.encodes w then .ok i else .error .field :=
  reserved_of_mask hword hmask hop (by rw [and_fieldMask_eq_iff, hzero])

/-- The format IV: the reserved bits are two fields (30_encoding R96). -/
theorem reserved_of_rowIV {r : OpcodeRow} {w : Word} {i : Instr} (hword : r.word &&& r.mask = r.word)
    (hmask : r.mask = fieldMask 31 28 ||| (fieldMask 15 10 ||| fieldMask 27 21))
    (hop : bits w 31 28 = bits r.word 31 28) (hlow : bits r.word 15 10 = 0) (hhigh : bits r.word 27 21 = 0) :
    reserved (bits w 15 10 + bits w 27 21) i = if r.encodes w then .ok i else .error .field :=
  reserved_of_mask hword hmask hop (by
    rw [and_or_eq_iff, and_fieldMask_eq_iff, and_fieldMask_eq_iff, hlow, hhigh, Nat.add_eq_zero_iff])

/-- A word with the opcode of a row is the row's command, or has a reserved bit set (30_encoding R98, R100). -/
theorem decode_of_row {r : OpcodeRow} (hr : r ∈ opcodeRows) {w : Word} (hop : bits w 31 28 = r.op) :
    ∃ i, opcode i = r.op ∧ decode w = if r.encodes w then .ok i else .error .field := by
  rw [decode, hop]
  simp only [opcodeRows, List.mem_cons, List.not_mem_nil, or_false] at hr
  rcases hr with rfl | rfl | rfl | rfl | rfl | rfl | rfl | rfl | rfl | rfl | rfl
  · exact ⟨.nop, rfl, reserved_of_row rfl rfl hop rfl⟩
  · exact ⟨.rst, rfl, reserved_of_row rfl rfl hop rfl⟩
  · exact ⟨.lds (bits w 9 0) (sext5 (bits w 20 16)), rfl, reserved_of_rowIV rfl rfl hop rfl rfl⟩
  · exact ⟨.gen, rfl, reserved_of_row rfl rfl hop rfl⟩
  · exact ⟨.acq, rfl, reserved_of_row rfl rfl hop rfl⟩
  · exact ⟨.rdstat, rfl, reserved_of_row rfl rfl hop rfl⟩
  · exact ⟨.rdr (bits w 4 0), rfl, reserved_of_row rfl rfl hop rfl⟩
  · exact ⟨.rdc (bits w 14 10) (bits w 9 0), rfl, reserved_of_row rfl rfl hop rfl⟩
  · exact ⟨.rdb (bits w 14 10) (bits w 9 0), rfl, reserved_of_row rfl rfl hop rfl⟩
  · exact ⟨.rds (bits w 9 0), rfl, reserved_of_row rfl rfl hop rfl⟩
  · exact ⟨.rdt (bits w 4 0), rfl, reserved_of_row rfl rfl hop rfl⟩

/-- Every row's mask takes in the opcode, so an encoding of the row carries it. -/
theorem opcode_of_encodes {r : OpcodeRow} (hr : r ∈ opcodeRows) {w : Word} (h : r.encodes w = true) :
    bits w 31 28 = r.op := by
  have hrows : ∀ r ∈ opcodeRows, r.word &&& r.mask = r.word ∧ r.mask = fieldMask 31 28 ||| r.mask ∧
      bits r.word 31 28 = r.op := by decide
  obtain ⟨hword, hmask, hop⟩ := hrows r hr
  rw [OpcodeRow.encodes_iff hword, hmask, and_or_eq_iff, and_fieldMask_eq_iff] at h
  exact h.1.trans hop

theorem opcode_lt (i : Instr) : opcode i < 0xB := by cases i <;> simp [opcode]

/-- The opcodes 0x0 to 0xA have each their row. -/
theorem exists_row_of_opcode_lt {op : Nat} (h : op < 0xB) : ∃ r ∈ opcodeRows, r.op = op := by
  revert op
  decide

theorem decode_of_reservedOpcode {w : Word} (h : 0xB ≤ bits w 31 28) : decode w = .error .opcode := by
  unfold decode
  split
  case h_12 => rfl
  all_goals omega

/-! ### The three kinds of words -/

/-- A word with the opcode of a row whose mask it fails has a reserved bit set. -/
theorem decode_of_not_encodes {r : OpcodeRow} (hr : r ∈ opcodeRows) {w : Word} (hop : bits w 31 28 = r.op)
    (hbad : r.encodes w = false) : decode w = .error .field := by
  obtain ⟨i, -, hdecode⟩ := decode_of_row hr hop
  rw [hdecode, hbad]
  rfl

theorem decode_eq_opcode_iff {w : Word} : decode w = .error .opcode ↔ 0xB ≤ bits w 31 28 := by
  refine ⟨fun h => ?_, decode_of_reservedOpcode⟩
  by_contra hlt
  obtain ⟨r, hr, hop⟩ := exists_row_of_opcode_lt (Nat.lt_of_not_le hlt)
  obtain ⟨i, -, hdecode⟩ := decode_of_row hr hop.symm
  rw [hdecode] at h
  split at h <;> cases h

theorem decode_eq_field_iff {w : Word} : decode w = .error .field ↔
    bits w 31 28 < 0xB ∧ ∀ r ∈ opcodeRows, r.op = bits w 31 28 → r.encodes w = false := by
  constructor
  · intro h
    refine ⟨Nat.lt_of_not_le fun hop => ?_, fun r hr hop => ?_⟩
    · cases h.symm.trans (decode_of_reservedOpcode hop)
    · obtain ⟨i, -, hdecode⟩ := decode_of_row hr hop.symm
      rw [hdecode] at h
      split at h
      · cases h
      · exact Bool.eq_false_iff.mpr ‹_›
  · rintro ⟨hlt, hbad⟩
    obtain ⟨r, hr, hop⟩ := exists_row_of_opcode_lt hlt
    exact decode_of_not_encodes hr hop.symm (hbad r hr hop)

/-- Settles O3: a row's encoding carries the row's opcode, and of the words with that opcode the mask selects those that
decode. -/
theorem decodeMatchesOpcodeMap : Obligations.DecodeMatchesOpcodeMap := by
  intro w r hr
  constructor
  · intro h
    obtain ⟨i, hi, hdecode⟩ := decode_of_row hr (opcode_of_encodes hr h)
    exact ⟨i, by rw [hdecode, if_pos h], hi⟩
  · rintro ⟨i, hdecode, hi⟩
    obtain ⟨hop, -⟩ := decode_eq_ok_iff.mp hdecode
    obtain ⟨j, -, hrow⟩ := decode_of_row hr (hop.trans hi)
    by_contra hne
    cases hdecode.symm.trans (hrow.trans (if_neg hne))

/-- Settles O4: the reserved opcodes and reserved bits by the decoder's own two errors, the commands row by row. -/
theorem everyWordIsClassified : Obligations.EveryWordIsClassified := by
  refine fun w => ⟨?_, decode_eq_opcode_iff, decode_eq_field_iff⟩
  constructor
  · rintro ⟨i, hdecode⟩
    obtain ⟨r, hr, hop⟩ := exists_row_of_opcode_lt (opcode_lt i)
    exact ⟨r, hr, (decodeMatchesOpcodeMap w r hr).mpr ⟨i, hdecode, hop.symm⟩⟩
  · rintro ⟨r, hr, henc⟩
    obtain ⟨i, hdecode, -⟩ := (decodeMatchesOpcodeMap w r hr).mp henc
    exact ⟨i, hdecode⟩

end Sys2Proof
end

section
/-! The fields of a record word (30_encoding R105). -/

namespace Sys2Proof.Machine

open Sys2Proof

theorem statusCode_le (x : Status) : statusCode x ≤ 2 := by cases x <;> decide

/-- The fields of a record do not run into one another: an identity takes five bits. -/
theorem recordWord_fields (r : Result) {id : Nat} (hid : id ≤ 24) :
    bits (recordWord r id) 1 0 = statusCode r.status ∧ bits (recordWord r id) 2 2 = bitNat r.bit ∧
      bits (recordWord r id) 12 3 = r.offset.toNat ∧ bits (recordWord r id) 17 13 = id ∧
      bits (recordWord r id) 31 18 = 0 := by
  have hstatus := statusCode_le r.status
  have hbit := bitNat_le r.bit
  have hoffset := r.offset.isLt
  simp only [bits, recordWord, BitVec.toNat_ofNat]
  omega

/-- Settles O26: a detection puts the record word of a FOUND result on the port, its identity the index plus one. -/
theorem recordFields : Obligations.RecordFields :=
  ⟨fun r _ hid => recordWord_fields r hid,
    fun k bit d _ => ⟨_, rfl, recordWord_fields ⟨.found, bit, d⟩ (show satId k ≤ 24 from k.isLt)⟩, rfl⟩

end Sys2Proof.Machine
end

section
/-! The error an accepted word reports (60_exceptions R228), and the one response it produces (30_encoding R103). -/

namespace Sys2Proof.Machine

open Sys2Proof

/-! ### Acceptance -/

theorem legalInFault_eq_false_iff {w : Word} : legalInFault w = false ↔ bits w 31 28 ≠ 0x1 ∧ bits w 31 28 ≠ 0x5 := by
  rw [legalInFault, decide_eq_false_iff_not, not_or]

theorem accept_refused {w : Word} {s : State} (h : s.phase = .fault ∧ legalInFault w = false) :
    accept w s = refuseFaulted s := if_pos h

theorem accept_illegal {w : Word} {s : State} {e : Illegal} (h : ¬(s.phase = .fault ∧ legalInFault w = false))
    (hd : decode w = .error e) : accept w s = raise (illegalErr e) s := by
  rw [accept, if_neg h, hd]

/-- In FAULT with a code latched error entry changes nothing but the response (60_exceptions R229). -/
theorem latch_of_latched (e : Err) {s : State} (hf : s.phase = .fault) (hinv : LatchInv s) : latch e s = s := by
  rw [latch, if_neg (hinv.1.mpr hf), ← hf]

/-- Settles O13: an illegal word is refused in FAULT by its opcode, and else enters error entry with its own code. -/
theorem illegalWords : Obligations.IllegalWords := by
  intro w s _
  refine ⟨fun hop hf => ?_, fun hop hf => ?_, fun r hr hop hbad => ?_⟩
  · exact accept_illegal (fun h => hf h.1) (decode_of_reservedOpcode hop)
  · exact accept_refused ⟨hf, legalInFault_eq_false_iff.mpr (by omega)⟩
  · have hdecode := decode_of_not_encodes hr hop.symm hbad
    refine ⟨fun hf => accept_illegal (fun h => hf h.1) hdecode, fun hf hinv hlegal => ?_⟩
    have hnot : ¬(s.phase = .fault ∧ legalInFault w = false) := fun h => by
      obtain ⟨h1, h5⟩ := legalInFault_eq_false_iff.mp h.2
      exact hlegal.elim h1 h5
    rw [accept_illegal hnot hdecode, illegalErr, raise, latch_of_latched .field hf hinv]
    rfl

/-! ### The first error of a word -/

/-- The error of `RDC` and `RDB`: `E_SEQ` before `E_INDEX` (42 R196, R197). -/
def tableError (n i : Nat) (s : State) : Option Err :=
  if s.phase ≠ .ready ∧ s.phase ≠ .done then some .seq else if 23 < n ∨ 1022 < i then some .index else none

/-- The error a command raises outside FAULT, in the order of steps 3 to 6 of 42 R190. -/
def commandError : Instr → State → Option Err
  | .nop, _ => none
  | .rst, _ => none
  | .lds i v, _ => if 1022 < i then some .index else if v < -9 ∨ 9 < v then some .range else none
  | .gen, _ => none
  | .acq, s => if s.phase ≠ .ready then some .seq else if sfull s = false then some .uninit else none
  | .rdstat, _ => none
  | .rdr n, _ => if 23 < n then some .index else none
  | .rdc n i, s => tableError n i s
  | .rdb n i, s => tableError n i s
  | .rds i, s => if 1022 < i then some .index else if s.svalid.cells[i]? = some false then some .uninit else none
  | .rdt n, _ => if 23 < n then some .index else none

/-- R228's search, one condition after the other. -/
theorem firstOf_cons (b : Bool) (e : Err) (l : List (Bool × Err)) :
    (((b, e) :: l).find? fun c => c.1).map (fun c => c.2) =
      if b = true then some e else (l.find? fun c => c.1).map fun c => c.2 := by
  cases b <;> rfl

theorem faultedCondition_iff {w : Word} {s : State} :
    s.phase = .fault ∧ bits w 31 28 ≠ 0x1 ∧ bits w 31 28 ≠ 0x5 ↔ s.phase = .fault ∧ legalInFault w = false := by
  rw [legalInFault_eq_false_iff]

/-- R228's condition for `E_FIELD`, where the opcode is not reserved. -/
theorem fieldCondition_iff {w : Word} (hlt : bits w 31 28 < 0xB) :
    (opcodeRows.any fun r => decide (r.op = bits w 31 28) && !r.encodes w) = true ↔ decode w = .error .field := by
  rw [List.any_eq_true]
  constructor
  · rintro ⟨r, hr, h⟩
    simp only [Bool.and_eq_true, decide_eq_true_eq, Bool.not_eq_true'] at h
    exact decode_of_not_encodes hr h.1.symm h.2
  · intro h
    obtain ⟨r, hr, hop⟩ := exists_row_of_opcode_lt hlt
    obtain ⟨-, hbad⟩ := decode_eq_field_iff.mp h
    exact ⟨r, hr, by simp [hop, hbad r hr hop]⟩

theorem firstError_refused {w : Word} {s : State} (h : s.phase = .fault ∧ legalInFault w = false) :
    firstError w s = some .faulted := by
  rw [firstError, errorConditions, firstOf_cons, if_pos (decide_eq_true (faultedCondition_iff.mpr h))]

theorem firstError_illegal {w : Word} {s : State} {e : Illegal} (h : ¬(s.phase = .fault ∧ legalInFault w = false))
    (hd : decode w = .error e) : firstError w s = some (illegalErr e) := by
  simp only [firstError, errorConditions, firstOf_cons, decide_eq_true_eq, faultedCondition_iff, if_neg h]
  cases e with
  | opcode => exact if_pos (decode_eq_opcode_iff.mp hd)
  | field =>
    obtain ⟨hlt, -⟩ := decode_eq_field_iff.mp hd
    rw [if_neg (Nat.not_le_of_lt hlt), if_pos ((fieldCondition_iff hlt).mpr hd)]
    rfl

theorem firstError_decoded {w : Word} {s : State} {i : Instr} (h : ¬(s.phase = .fault ∧ legalInFault w = false))
    (hd : decode w = .ok i) : firstError w s = commandError i s := by
  obtain ⟨hop, hfields⟩ := decode_eq_ok_iff.mp hd
  have hlt : bits w 31 28 < 0xB := hop ▸ opcode_lt i
  have hfield : decode w ≠ .error .field := by simp [hd]
  simp only [firstError, errorConditions, firstOf_cons, decide_eq_true_eq, faultedCondition_iff, if_neg h,
    if_neg (Nat.not_le_of_lt hlt), fieldCondition_iff hlt, if_neg hfield]
  cases i <;>
    · simp only [opcode, CarriesOperands] at hop hfields
      simp [commandError, tableError, hop, hfields]

/-! ### Responses -/

/-- The command answers with the error word of `e`, and that is the error its operands and the state call for. -/
def AnswersError (i : Instr) (s t : State) : Prop :=
  ∃ e, commandError i s = some e ∧ t.rsp = s.rsp ++ [errWord e]

/-- No error is called for, and the command answers with a result: the error flag clear, and zero for the commands up to
`ACQ`, which return no data (30_encoding R103, R104). -/
def AnswersResult (i : Instr) (s t : State) : Prop :=
  commandError i s = none ∧ ∃ r, t.rsp = s.rsp ++ [r] ∧ r.getLsbD 31 = false ∧ (r = 0#32 ∨ 0x4 < opcode i)

theorem answersError_latch {i : Instr} {s : State} {e : Err} (h : commandError i s = some e) :
    AnswersError i s (respond (errWord e) (latch e s)) := ⟨e, h, rfl⟩

theorem answersResult_zero {i : Instr} {s u : State} (h : commandError i s = none) (hu : u.rsp = s.rsp) :
    AnswersResult i s (respond 0 u) := ⟨h, 0, by rw [respond_rsp, hu], rfl, .inl rfl⟩

theorem answersResult_data {i : Instr} {s : State} {r : Word} (h : commandError i s = none) (hr : r.getLsbD 31 = false)
    (hi : 0x4 < opcode i) : AnswersResult i s (respond r s) := ⟨h, r, rfl, hr, .inr hi⟩

theorem tableError_idle {n i : Nat} {s : State} (hp : s.phase = .idle) : tableError n i s = some .seq :=
  if_pos (by simp [hp])

theorem tableError_readable {s : State} (hp : TablesReadable s) (n i : Nat) :
    tableError n i s = if 23 < n ∨ 1022 < i then some .index else none :=
  if_neg (by rcases hp with hp | hp <;> simp [hp])

theorem svalid_getElem? (s : State) {i : Nat} (hi : i < 1023) : s.svalid.cells[i]? = some (s.svalid.get ⟨i, hi⟩) :=
  List.getElem?_eq_getElem _

theorem acqDone_rsp (s : State) : (acqDone s).rsp = s.rsp := by simp only [acqDone_same s]

/-- A command that takes a step and is not refused in FAULT answers at once, where no reset is coming. -/
theorem exec_answers {i : Instr} {s t : State} (hf : s.phase = .fault → i = .rst ∨ i = .rdstat) (hr : s.rstIn = [])
    (h : exec i s = .next t) : AnswersError i s t ∨ AnswersResult i s t := by
  cases i with
  | nop =>
    rcases execNop_next h with ⟨hfault, -⟩ | ⟨-, rfl⟩
    · simpa using hf hfault
    · exact .inr (answersResult_zero rfl rfl)
  | rst =>
    obtain ⟨-, rfl⟩ := execRst_next h
    exact .inr (answersResult_zero rfl (applyReset_rsp s))
  | lds k v =>
    rcases execLds_next h with ⟨hfault, -⟩ | ⟨-, ⟨hk, rfl⟩ | ⟨hk, ⟨hv, rfl⟩ | ⟨hv, rfl⟩⟩⟩
    · simpa using hf hfault
    · exact .inl (answersError_latch (if_pos (by omega)))
    · exact .inl (answersError_latch ((if_neg (by omega)).trans (if_pos (by omega))))
    · exact .inr (answersResult_zero ((if_neg (by omega)).trans (if_neg (by omega))) (writeSample_rsp _ _ s))
  | gen =>
    rcases execGen_next h with ⟨hfault, -⟩ | ⟨-, ⟨-, rfl⟩ | ⟨hne, -⟩⟩
    · simpa using hf hfault
    · exact .inr (answersResult_zero rfl (genDone_rsp s))
    · exact absurd hr hne
  | acq =>
    rcases execAcq_next h with ⟨hfault, -⟩ | ⟨hp, rfl⟩ | ⟨hp, ⟨hs, rfl⟩ | ⟨hs, ⟨-, -, rfl⟩ | ⟨hne, -⟩⟩⟩
    · simpa using hf hfault
    · exact .inl (answersError_latch (if_pos (by rcases hp with hp | hp <;> simp [hp])))
    · exact .inl (answersError_latch (by simp [commandError, hp, hs]))
    · exact .inr (answersResult_zero (by simp [commandError, hp, hs]) (acqDone_rsp s))
    · exact absurd hr hne
  | rdstat =>
    obtain ⟨-, rfl⟩ := execRdstat_next h
    exact .inr (answersResult_data rfl (statWord_flag s) (by simp [opcode]))
  | rdr n =>
    rcases execRdr_next h with ⟨hfault, -⟩ | ⟨-, ⟨hn, rfl⟩ | ⟨hn, rfl⟩⟩
    · simpa using hf hfault
    · exact .inl (answersError_latch (if_pos (by omega)))
    · have hid : satId ⟨n, hn⟩ ≤ 24 := hn
      exact .inr (answersResult_data (if_neg (by omega)) (recordWord_flag _ hid) (by simp [opcode]))
  | rdc n k =>
    rcases execRdc_next h with ⟨hfault, -⟩ | ⟨hp, rfl⟩ | ⟨hp, ⟨hn, rfl⟩ | ⟨hn, ⟨hk, rfl⟩ | ⟨hk, c, -, rfl⟩⟩⟩
    · simpa using hf hfault
    · exact .inl (answersError_latch (tableError_idle hp))
    · exact .inl (answersError_latch ((tableError_readable hp n k).trans (if_pos (by omega))))
    · exact .inl (answersError_latch ((tableError_readable hp n k).trans (if_pos (by omega))))
    · exact .inr (answersResult_data ((tableError_readable hp n k).trans (if_neg (by omega))) (chipWord_flag c)
        (by simp [opcode]))
  | rdb n k =>
    rcases execRdb_next h with ⟨hfault, -⟩ | ⟨hp, rfl⟩ | ⟨hp, ⟨hn, rfl⟩ | ⟨hn, ⟨hk, rfl⟩ | ⟨hk, c, -, rfl⟩⟩⟩
    · simpa using hf hfault
    · exact .inl (answersError_latch (tableError_idle hp))
    · exact .inl (answersError_latch ((tableError_readable hp n k).trans (if_pos (by omega))))
    · exact .inl (answersError_latch ((tableError_readable hp n k).trans (if_pos (by omega))))
    · exact .inr (answersResult_data ((tableError_readable hp n k).trans (if_neg (by omega))) (bipWord_flag c)
        (by simp [opcode]))
  | rds k =>
    rcases execRds_next h with ⟨hfault, -⟩ | ⟨-, ⟨hk, rfl⟩ | ⟨hk, ⟨hv, rfl⟩ | ⟨hv, x, -, rfl⟩⟩⟩
    · simpa using hf hfault
    · exact .inl (answersError_latch (if_pos (by omega)))
    · exact .inl (answersError_latch ((if_neg (by omega)).trans (if_pos (by rw [svalid_getElem? s hk, hv]))))
    · exact .inr (answersResult_data ((if_neg (by omega)).trans (if_neg (by simp [svalid_getElem? s hk, hv])))
        (sampleWord_flag x) (by simp [opcode]))
  | rdt n =>
    rcases execRdt_next h with ⟨hfault, -⟩ | ⟨-, ⟨hn, rfl⟩ | ⟨hn, rfl⟩⟩
    · simpa using hf hfault
    · exact .inl (answersError_latch (if_pos (by omega)))
    · exact .inr (answersResult_data (if_neg (by omega)) (tapWord_flag _) (by simp [opcode]))

/-- A word that is not refused in FAULT and decodes there is one of the two commands legal in FAULT. -/
theorem rst_or_rdstat_of_fault {w : Word} {s : State} {i : Instr} (h : ¬(s.phase = .fault ∧ legalInFault w = false))
    (hd : decode w = .ok i) (hf : s.phase = .fault) : i = .rst ∨ i = .rdstat := by
  obtain ⟨hop, -⟩ := decode_eq_ok_iff.mp hd
  rw [legalInFault_eq_false_iff, hop] at h
  cases i <;> simp [opcode, hf] at h ⊢

/-- One response, as 30_encoding R103 has it for the first error of the word, or for none. -/
def RespondsOnce (w : Word) (s t : State) : Prop :=
  ∃ r, t.rsp = s.rsp ++ [r] ∧ (r.getLsbD 31 = true ↔ ∃ e, firstError w s = some e) ∧
    (∀ e, firstError w s = some e → r = BitVec.ofNat 32 (0x80000000 + errCode e)) ∧
    (firstError w s = none → bits w 31 28 ≤ 0x4 → r = 0#32)

theorem respondsOnce_error {w : Word} {s t : State} {e : Err} (he : firstError w s = some e)
    (ht : t.rsp = s.rsp ++ [errWord e]) : RespondsOnce w s t := by
  refine ⟨errWord e, ht, iff_of_true (errWord_flag e) ⟨e, he⟩, fun e' he' => ?_, fun hnone => ?_⟩
  · cases he.symm.trans he'
    rfl
  · cases he.symm.trans hnone

theorem respondsOnce_result {w : Word} {s t : State} {r : Word} (hnone : firstError w s = none)
    (ht : t.rsp = s.rsp ++ [r]) (hflag : r.getLsbD 31 = false) (hzero : bits w 31 28 ≤ 0x4 → r = 0#32) :
    RespondsOnce w s t :=
  ⟨r, ht, by simp only [hflag, hnone, reduceCtorEq, exists_false], fun e he => (by cases hnone.symm.trans he),
    fun _ => hzero⟩

/-- Settles O19: a refusal, an illegal word and an error of the command answer the first error's word; any other command
answers its result. -/
theorem exactlyOneResponse : Obligations.ExactlyOneResponse := by
  intro w s t _ hr h
  rcases accept_cases h with ⟨hf, hl, rfl⟩ | ⟨hnot, ⟨e, hd, rfl⟩ | ⟨i, hd, h⟩⟩
  · exact respondsOnce_error (firstError_refused ⟨hf, hl⟩) rfl
  · exact respondsOnce_error (firstError_illegal hnot hd) rfl
  · obtain ⟨hop, -⟩ := decode_eq_ok_iff.mp hd
    have hfirst := firstError_decoded hnot hd
    rcases exec_answers (rst_or_rdstat_of_fault hnot hd) hr h with ⟨e, he, ht⟩ | ⟨hnone, r, ht, hflag, hzero⟩
    · exact respondsOnce_error (hfirst.trans he) ht
    · exact respondsOnce_result (hfirst.trans hnone) ht hflag fun hle => hzero.resolve_right (by omega)

end Sys2Proof.Machine
end

section
/-! The micro-operations of the generator one by one, and where the loops of 40_generator R136 go from each element. -/

namespace Sys2Proof.Machine

open Sys2Proof

/-! ### The shift registers -/

/-- `f :: X[0..8]`, position by position (00_scope section 7). -/
theorem shiftIn_front (f : Bool) (x : ShiftReg) : (shiftIn f x).getLsbD 0 = f :=
  BitVec.getLsbD_shiftConcat x f 0

theorem shiftIn_succ (f : Bool) (x : ShiftReg) {p : Nat} (hp : p < 9) :
    (shiftIn f x).getLsbD (p + 1) = x.getLsbD p := by
  rw [shiftIn, BitVec.getLsbD_shiftConcat, if_neg (Nat.succ_ne_zero p), decide_eq_true (Nat.succ_lt_succ hp),
    Bool.true_and, Nat.add_sub_cancel]

theorem feedback_top (x : ShiftReg) : feedback Config.fbTop x = (x.getLsbD 2 ^^ x.getLsbD 9) := by
  simp only [feedback, Config.fbTop, List.foldl, Bool.false_xor]

theorem feedback_bot (x : ShiftReg) : feedback Config.fbBot x =
    (x.getLsbD 1 ^^ x.getLsbD 2 ^^ x.getLsbD 5 ^^ x.getLsbD 7 ^^ x.getLsbD 8 ^^ x.getLsbD 9) := by
  simp only [feedback, Config.fbBot, List.foldl, Bool.false_xor]

theorem topNext_front (x : ShiftReg) : (topNext x).getLsbD 0 = (x.getLsbD 2 ^^ x.getLsbD 9) :=
  (shiftIn_front _ x).trans (feedback_top x)

theorem botNext_front (x : ShiftReg) : (botNext x).getLsbD 0 =
    (x.getLsbD 1 ^^ x.getLsbD 2 ^^ x.getLsbD 5 ^^ x.getLsbD 7 ^^ x.getLsbD 8 ^^ x.getLsbD 9) :=
  (shiftIn_front _ x).trans (feedback_bot x)

/-- The register step `f` moves position `p` to position `p + 1` (40_generator R133, R134). -/
def Shifts (f : ShiftReg → ShiftReg) : Prop := ∀ (x : ShiftReg) (p : Nat), p < 9 → (f x).getLsbD (p + 1) = x.getLsbD p

theorem topNext_shifts : Shifts topNext := fun x _ => shiftIn_succ _ x

theorem botNext_shifts : Shifts botNext := fun x _ => shiftIn_succ _ x

/-- The end of a chip step changes nothing but the loop's position. -/
theorem afterChip_frame (k : Fin 24) (i : Fin 1023) (s : State) : afterChip k i s =
    { s with ctrS := (afterChip k i s).ctrS, ctrI := (afterChip k i s).ctrI, mop := (afterChip k i s).mop } := by
  unfold afterChip
  split <;> rfl

theorem afterChip_bot (k : Fin 24) (i : Fin 1023) (s : State) : (afterChip k i s).bot = s.bot := by
  rw [afterChip_frame]

/-- Settles O41: both registers shift in their feedback bit, and the end of a chip step moves the loop on. -/
theorem microShiftRegisters : Obligations.MicroShiftRegisters := by
  constructor
  · intro s x hp hm hx
    exact ⟨topNext x, micro_gTop hp hm hx, topNext_front x, topNext_shifts x⟩
  · intro s k i x hp hm hk hi hx
    refine ⟨_, botNext x, micro_gBot hp hm hk hi hx, afterChip_bot k i _, botNext_front x, botNext_shifts x, ?_⟩
    rw [afterChip_bot]
    exact afterChip_frame k i _

/-! ### `g_init` and `g_chip` -/

theorem read2_write2_self {α : Type} (a : Tab (Tab α 1023) 24) (k : Fin 24) (i : Fin 1023) (v : α) :
    read2 (write2 a k i v) k i = v := by
  rw [read2_write2, if_pos ⟨rfl, rfl⟩]

/-- A write to `A[s][i]` leaves every other element alone (20_memory R60). -/
theorem read2_write2_ne {α : Type} (a : Tab (Tab α 1023) 24) {k l : Fin 24} {i j : Fin 1023} (v : α)
    (h : (l, j) ≠ (k, i)) : read2 (write2 a k i v) l j = read2 a l j := by
  rw [read2_write2, if_neg]
  rintro ⟨rfl, rfl⟩
  exact h rfl

/-- Settles O40: `g_chip` writes the one element the counters name, from the registers as they stand. -/
theorem microInitAndChip : Obligations.MicroInitAndChip := by
  constructor
  · intro s hp hm
    exact micro_gInit hp hm
  · intro s k i x y hp hm hk hi hx hy
    exact ⟨_, micro_gChip hp hm hk hi hx hy, read2_write2_self _ k i _, fun l j => read2_write2_ne _ _, rfl⟩

/-! ### `g_map` and the loops -/

/-- A loop of 40_generator R136 has a next element before the last of the 24 × 1023, and none after it. -/
theorem succPos_of_lt {k : Fin 24} {i : Fin 1023} (h : chipStep k i < 24552 - 1) :
    ∃ l j, succPos k i = some (l, j) ∧ chipStep l j = chipStep k i + 1 := by
  cases hp : succPos k i with
  | none =>
    have := chipStep_of_succPos_none hp
    omega
  | some p => exact ⟨p.1, p.2, rfl, chipStep_of_succPos hp⟩

theorem succPos_of_last {k : Fin 24} {i : Fin 1023} (h : chipStep k i = 24552 - 1) : succPos k i = none := by
  cases hp : succPos k i with
  | none => rfl
  | some p =>
    have hstep := chipStep_of_succPos (l := p.1) (j := p.2) hp
    have hlt := chipStep_lt p.1 p.2
    omega

theorem afterMap_next {k l : Fin 24} {i j : Fin 1023} (h : succPos k i = some (l, j)) (s : State) :
    afterMap k i s = { s with ctrS := some l, ctrI := some j } := by
  rw [afterMap, h]

theorem afterMap_last {k : Fin 24} {i : Fin 1023} (h : succPos k i = none) (s : State) :
    afterMap k i s = genFinish s := by
  rw [afterMap, h]

theorem afterChip_next {k l : Fin 24} {i j : Fin 1023} (h : succPos k i = some (l, j)) (s : State) :
    afterChip k i s = { s with ctrS := some l, ctrI := some j, mop := some .gChip } := by
  rw [afterChip, h]

theorem afterChip_last {k : Fin 24} {i : Fin 1023} (h : succPos k i = none) (s : State) :
    afterChip k i s = { s with ctrS := some 0, ctrI := some 0, mop := some .gMap } := by
  rw [afterChip, h]

/-- The end of a mapping step leaves the bipolar table as `g_map` wrote it. -/
theorem afterMap_bip (k : Fin 24) (i : Fin 1023) (s : State) : (afterMap k i s).bip = s.bip := by
  unfold afterMap
  split <;> rfl

/-- Settles O42: `g_map` writes the element the counters name, and either loop has a next element exactly before its last. -/
theorem microMapAndLoops : Obligations.MicroMapAndLoops := by
  intro s k i hp hk hi
  constructor
  · intro c hm hc
    refine ⟨_, micro_gMap hp hm hk hi hc, ?_, fun l j hne => ?_, fun hlt => ?_, fun hlast => ?_⟩
    · rw [afterMap_bip]
      exact read2_write2_self _ k i _
    · rw [afterMap_bip]
      exact read2_write2_ne _ _ hne
    · obtain ⟨l, j, hnext, hstep⟩ := succPos_of_lt hlt
      rw [afterMap_next hnext]
      exact ⟨hp, rfl, hm, l, j, rfl, rfl, hstep⟩
    · rw [afterMap_last (succPos_of_last hlast)]
      exact ⟨rfl, rfl, rfl, rfl, rfl⟩
  · intro y hm hy
    refine ⟨_, micro_gBot hp hm hk hi hy, fun hlt => ?_, fun hlast => ?_⟩
    · obtain ⟨l, j, hnext, hstep⟩ := succPos_of_lt hlt
      rw [afterChip_next hnext]
      exact ⟨rfl, l, j, rfl, rfl, hstep⟩
    · rw [afterChip_last (succPos_of_last hlast)]
      exact ⟨rfl, rfl, rfl⟩

end Sys2Proof.Machine
end

section
/-! The period of the shift registers (40_generator R138): 1023 is `3 * 11 * 31`, so a register that returns to all ones
after 1023 steps, and neither after 341 nor 93 nor 33 of them, does so no sooner; the 1023 values on the way differ and none
is zero, so they are all the non-zero ones. -/

namespace Sys2Proof.Machine

open Sys2Proof Function

theorem regAfter_eq_iterate (f : ShiftReg → ShiftReg) (n : Nat) (x : ShiftReg) : regAfter f n x = f^[n] x := by
  induction n generalizing x with
  | zero => rfl
  | succ n ih => exact ih (f x)

/-- The facts about a register step that its period rests on: all zeros stays all zeros, all ones returns after 1023 steps
and not after a third, an eleventh or a thirty-first of them. -/
structure ReturnsFirstAt1023 (f : ShiftReg → ShiftReg) : Prop where
  zero : f 0 = 0
  returns : regAfter f 1023 allOnes = allOnes
  third : regAfter f 341 allOnes ≠ allOnes
  eleventh : regAfter f 93 allOnes ≠ allOnes
  thirtyFirst : regAfter f 33 allOnes ≠ allOnes

theorem topNext_returns : ReturnsFirstAt1023 topNext where
  zero := by decide
  returns := by decide +kernel
  third := by decide +kernel
  eleventh := by decide +kernel
  thirtyFirst := by decide +kernel

theorem botNext_returns : ReturnsFirstAt1023 botNext where
  zero := by decide
  returns := by decide +kernel
  third := by decide +kernel
  eleventh := by decide +kernel
  thirtyFirst := by decide +kernel

/-- A register is back at `x` after `n` steps exactly where its period there divides `n`. -/
theorem regAfter_eq_self_iff {f : ShiftReg → ShiftReg} {n : Nat} {x : ShiftReg} :
    regAfter f n x = x ↔ minimalPeriod f x ∣ n := by
  rw [regAfter_eq_iterate]
  exact isPeriodicPt_iff_minimalPeriod_dvd

/-- A divisor of 1023 other than 1023 divides the quotient by one of its primes. -/
theorem dvd_quotient_of_dvd_1023 {m : Nat} (h : m ∣ 1023) (hne : m ≠ 1023) : m ∣ 341 ∨ m ∣ 93 ∨ m ∣ 33 := by
  have hm : m ∈ Nat.divisors 1023 := Nat.mem_divisors.mpr ⟨h, by decide⟩
  simp only [Nat.divisors_ofNat, Finset.mem_insert, Finset.mem_singleton, hne, or_false] at hm
  rcases hm with rfl | rfl | rfl | rfl | rfl | rfl | rfl <;> decide

section

variable {f : ShiftReg → ShiftReg} (hf : ReturnsFirstAt1023 f)
include hf

theorem minimalPeriod_allOnes : minimalPeriod f allOnes = 1023 := by
  by_contra hne
  rcases dvd_quotient_of_dvd_1023 (regAfter_eq_self_iff.mp hf.returns) hne with h | h | h
  · exact hf.third (regAfter_eq_self_iff.mpr h)
  · exact hf.eleventh (regAfter_eq_self_iff.mpr h)
  · exact hf.thirtyFirst (regAfter_eq_self_iff.mpr h)

/-- A multiple of the period. -/
theorem regAfter_mul_period (k n : Nat) : regAfter f (1023 * k + n) allOnes = regAfter f n allOnes := by
  have hk : regAfter f (1023 * k) allOnes = allOnes :=
    regAfter_eq_self_iff.mpr (minimalPeriod_allOnes hf ▸ Nat.dvd_mul_right 1023 k)
  rw [regAfter_add, hk]

/-- All zeros would stay, and all ones comes back. -/
theorem regAfter_ne_zero (n : Nat) : regAfter f n allOnes ≠ 0 := by
  intro h
  have hstay : ∀ m, regAfter f m 0 = 0 := fun m => by
    rw [regAfter_eq_iterate]
    exact iterate_fixed hf.zero m
  have hback : regAfter f (n + 1022 * n) allOnes = allOnes := by
    rw [show n + 1022 * n = 1023 * n + 0 by omega, regAfter_mul_period hf]
    rfl
  rw [regAfter_add, h, hstay] at hback
  exact absurd hback (by decide)

/-- The values of one period differ from each other. -/
theorem regAfter_injOn : Set.InjOn (regAfter f · allOnes) (Finset.range 1023) := by
  simp only [regAfter_eq_iterate, Finset.coe_range]
  exact minimalPeriod_allOnes hf ▸ iterate_injOn_Iio_minimalPeriod

/-- 1023 different non-zero values are all the non-zero values of a register. -/
theorem exists_regAfter_eq {x : ShiftReg} (hx : x ≠ 0) : ∃ n, n < 1023 ∧ regAfter f n allOnes = x := by
  have hmaps : Set.MapsTo (regAfter f · allOnes) (Finset.range 1023) (Finset.univ.erase (0 : ShiftReg)) :=
    fun n _ => by simpa using regAfter_ne_zero hf n
  have hcard : (Finset.univ.erase (0 : ShiftReg)).card ≤ (Finset.range 1023).card := by
    simp [Finset.card_erase_of_mem, ← FinEnum.card_eq_fintypeCard]
  obtain ⟨n, hn, hnx⟩ := Finset.surjOn_of_injOn_of_card_le _ hmaps (regAfter_injOn hf) hcard
    (show x ∈ _ by simpa using hx)
  exact ⟨n, by simpa using hn, hnx⟩

end

/-- Settles O31: both registers return first after 1023 steps. -/
theorem registerPeriod : Obligations.RegisterPeriod := by
  intro f hf
  have hret : ReturnsFirstAt1023 f := by
    rcases hf with rfl | rfl
    · exact topNext_returns
    · exact botNext_returns
  refine ⟨hret.returns, fun n hpos hlt h => ?_, regAfter_ne_zero hret, fun x => exists_regAfter_eq hret⟩
  have hdvd := minimalPeriod_allOnes hret ▸ regAfter_eq_self_iff.mp h
  exact absurd (Nat.le_of_dvd hpos hdvd) (Nat.not_le_of_lt hlt)

end Sys2Proof.Machine
end

section
/-! What a `GEN` leaves: the tables, the frame, and the chips in closed form (40_generator R136 to R139). -/

namespace Sys2Proof.Machine

open Sys2Proof

/-! ### A completed `GEN` -/

theorem execGen_complete {s : State} (h : Accepting s) (hr : s.rstIn = []) :
    exec .gen s = .next (respond 0 (genDone s)) := by
  rw [execGen_run h, if_pos hr]

/-- After 24 × 1023 steps, a multiple of the period, a register is all ones again (40_generator R138). -/
theorem regAfter_run {f : ShiftReg → ShiftReg} (hf : ReturnsFirstAt1023 f) :
    regAfter f (24 * 1023) allOnes = allOnes :=
  regAfter_mul_period hf 24 0

/-- Settles O29: a whole run writes every chip of its continuous steps and maps it. -/
theorem genFillsTables : Obligations.GenFillsTables := by
  intro s ha
  constructor
  · intro hr
    refine ⟨_, execGen_complete ha hr, fun k i => genChip_read s.tap k i, fun k i c hc => ?_, ?_, ?_, rfl, rfl⟩
    · rw [respond_chip, genDone_chip] at hc
      rw [respond_bip, genDone_bip, genBip_read, hc, Option.map_some]
    · rw [respond_top, genDone_top, regAfter_run topNext_returns]
    · rw [respond_bot, genDone_bot, regAfter_run botNext_returns]
  · intro hr
    rw [execGen_run ha, if_neg hr]
    rfl

/-- Settles O50: a refused `GEN` only responds, and neither a whole run nor the start of one writes these fields. -/
theorem genFrame : Obligations.GenFrame := by
  intro s t h
  rcases execGen_next h with ⟨-, rfl⟩ | ⟨-, ⟨-, rfl⟩ | ⟨-, rfl⟩⟩ <;>
    exact ⟨fun _ => ⟨rfl, rfl⟩, fun _ => rfl, rfl, rfl, rfl, rfl, rfl, rfl, rfl, rfl, rfl⟩

/-! ### The sequences `g1` and `g2` -/

/-- What a position holds reaches the last position after as many steps as lie between them (40_generator R139). -/
theorem regAfter_position {f : ShiftReg → ShiftReg} (hf : Shifts f) (x : ShiftReg) {p q n : Nat} (hpq : p + q = 9) :
    (regAfter f n x).getLsbD p = (regAfter f (n + q) x).getLsbD 9 := by
  induction q generalizing p n with
  | zero =>
    obtain rfl : p = 9 := hpq
    rfl
  | succ q ih =>
    calc (regAfter f n x).getLsbD p = (regAfter f (n + 1) x).getLsbD (p + 1) := by
          rw [regAfter_succ, hf _ p (by omega)]
      _ = (regAfter f (n + (q + 1)) x).getLsbD 9 := by
          rw [ih (by omega), Nat.add_assoc, Nat.add_comm 1 q]

/-- `TOP[p]` at step `n` is `g1(n + 9 - p)` (40_generator R139). -/
theorem top_position {p q : Nat} (n : Nat) (hpq : p + q = 9) : (regAfter topNext n allOnes).getLsbD p = g1 (n + q) :=
  regAfter_position topNext_shifts allOnes hpq

/-- `BOT[p]` at step `n` is `g2(n + 9 - p)` (40_generator R139). -/
theorem bot_position {p q : Nat} (n : Nat) (hpq : p + q = 9) : (regAfter botNext n allOnes).getLsbD p = g2 (n + q) :=
  regAfter_position botNext_shifts allOnes hpq

/-- The first ten values leave the register from its initial positions, all of them 1. -/
theorem first_ten {n : Nat} (hn : n < 10) : g1 n = true ∧ g2 n = true := by
  have hone : allOnes.getLsbD (9 - n) = true := by
    rw [allOnes, BitVec.getLsbD_allOnes, decide_eq_true (by omega)]
  have hpq : 9 - n + n = 9 := by omega
  have htop := top_position 0 hpq
  have hbot := bot_position 0 hpq
  rw [Nat.zero_add] at htop hbot
  exact ⟨htop.symm.trans hone, hbot.symm.trans hone⟩

/-- The value shifted into `TOP` at step `n` leaves it ten steps later. -/
theorem g1_recurrence (n : Nat) : g1 (n + 10) = (g1 (n + 7) ^^ g1 n) := by
  have hin := topNext_front (regAfter topNext n allOnes)
  rw [← regAfter_succ topNext, top_position (n + 1) (q := 9) rfl, top_position n (q := 7) rfl] at hin
  exact hin

/-- The value shifted into `BOT` at step `n` leaves it ten steps later. -/
theorem g2_recurrence (n : Nat) :
    g2 (n + 10) = (g2 (n + 8) ^^ g2 (n + 7) ^^ g2 (n + 4) ^^ g2 (n + 2) ^^ g2 (n + 1) ^^ g2 n) := by
  have hin := botNext_front (regAfter botNext n allOnes)
  rw [← regAfter_succ botNext, bot_position (n + 1) (q := 9) rfl, bot_position n (p := 1) (q := 8) rfl,
    bot_position n (p := 2) (q := 7) rfl, bot_position n (p := 5) (q := 4) rfl, bot_position n (p := 7) (q := 2) rfl,
    bot_position n (p := 8) (q := 1) rfl] at hin
  exact hin

theorem g1_periodic : Function.Periodic g1 1023 := fun n => by
  rw [g1, Nat.add_comm, ← Nat.mul_one 1023, regAfter_mul_period topNext_returns, g1]

theorem g2_periodic : Function.Periodic g2 1023 := fun n => by
  rw [g2, Nat.add_comm, ← Nat.mul_one 1023, regAfter_mul_period botNext_returns, g2]

theorem g1_first_values : (List.range 32).map (fun n => bitNat (g1 n)) =
    [1, 1, 1, 1, 1, 1, 1, 1, 1, 1, 0, 0, 0, 1, 1, 1, 0, 0, 0, 1, 0, 0, 1, 1, 1, 0, 1, 1, 0, 0, 1, 0] := by
  decide

theorem g2_first_values : (List.range 32).map (fun n => bitNat (g2 n)) =
    [1, 1, 1, 1, 1, 1, 1, 1, 1, 1, 0, 0, 1, 0, 1, 1, 0, 1, 0, 0, 1, 0, 1, 0, 1, 1, 1, 1, 0, 1, 0, 1] := by
  decide

/-! ### The chips in closed form -/

/-- Every satellite's row starts from all ones, a row being one period long (40_generator R138). -/
theorem genChip_row (tap : Tab TapPair 24) (k : Fin 24) (i : Fin 1023) : read2 (genChip tap) k i =
    some (chipBit (tap.get k) (regAfter topNext i allOnes) (regAfter botNext i allOnes)) := by
  rw [genChip_read, regAfter_mul_period topNext_returns, regAfter_mul_period botNext_returns]

/-- `BOT[p]` at step `n`, within one period. -/
theorem bot_position_mod (n : Nat) (p : Fin 10) :
    (regAfter botNext n allOnes).getLsbD p = g2 ((n + 9 - p) % 1023) := by
  rw [g2_periodic.map_mod_nat, Nat.add_sub_assoc (by omega)]
  exact bot_position n (by omega)

theorem genChip_closed (tap : Tab TapPair 24) (k : Fin 24) (i : Fin 1023) : read2 (genChip tap) k i =
    some (g1 i ^^ g2 ((i + 9 - (tap.get k).a) % 1023) ^^ g2 ((i + 9 - (tap.get k).b) % 1023)) := by
  rw [genChip_row, chipBit, bot_position_mod, bot_position_mod, ← Bool.xor_assoc]
  rfl

/-- The chips a completed `GEN` leaves. -/
theorem chip_of_execGen {s t : State} (ha : Accepting s) (hr : s.rstIn = []) (h : exec .gen s = .next t) :
    t.chip = genChip s.tap := by
  rw [execGen_complete ha hr] at h
  cases h
  rfl

/-- Settles O30: the positions of the registers give the recurrences and, with the period, every chip. -/
theorem chipClosedForm : Obligations.ChipClosedForm := by
  refine ⟨fun n => first_ten, g1_recurrence, g2_recurrence, fun n => ⟨g1_periodic n, g2_periodic n⟩, g1_first_values,
    g2_first_values, fun n p hp => ?_, fun s t ha hr h k i => ?_⟩
  · rw [Nat.add_sub_assoc (by omega)]
    exact ⟨top_position n (by omega), bot_position n (by omega)⟩
  · rw [chip_of_execGen ha hr h]
    exact genChip_closed s.tap k i

end Sys2Proof.Machine
end

section
/-! Degenerate tap pairs (40_generator R142): the sequences they give, and that the correlator reports equal rows alike. -/

namespace Sys2Proof.Machine

open Sys2Proof

/-! ### Sequences -/

/-- Equal positions cancel, which leaves the top register's output. -/
theorem chipBit_of_equal {p : TapPair} (h : p.a = p.b) (top bot : ShiftReg) : chipBit p top bot = top.getLsbD 9 := by
  rw [chipBit, h, Bool.xor_self, Bool.xor_false]
  rfl

theorem chipBit_swapped {p q : TapPair} (h : p.a = q.b ∧ p.b = q.a) (top bot : ShiftReg) :
    chipBit p top bot = chipBit q top bot := by
  rw [chipBit, chipBit, h.1, h.2, Bool.xor_comm (bot.getLsbD q.b)]

/-- Pairs that give equal chips from equal registers give equal rows. -/
theorem genChip_row_congr {tap : Tab TapPair 24} {k l : Fin 24}
    (h : ∀ top bot, chipBit (tap.get k) top bot = chipBit (tap.get l) top bot) (i : Fin 1023) :
    read2 (genChip tap) k i = read2 (genChip tap) l i := by
  rw [genChip_row, genChip_row, h]

/-! ### Results -/

/-- The result of a search is a function of the samples and the row searched (41_correlator R160). -/
theorem search_res_congr {k l : Fin 24} (n d : Nat) {s t : State} (hx : s.samp = t.samp)
    (hb : s.bip.get k = t.bip.get l) : (search k n d s).res.get k = (search l n d t).res.get l := by
  induction n generalizing d s t with
  | zero => simp only [search, markNosync_res, Tab.get_set_self]
  | succ n ih =>
    have hacc : (cDot k s).acc = (cDot l t).acc := by rw [cDot_acc, cDot_acc, hx, hb]
    rw [search, search, hacc]
    split
    · simp only [emitFound_res, Tab.get_set_self]
    · exact ih (d + 1) hx (by simp only [cRot_bip, cDot_bip, Tab.get_set_self, hb])

theorem searchSat_samp (k : Fin 24) (s : State) : (searchSat k s).samp = s.samp := by
  obtain ⟨-, -, -, h, -⟩ := searchAll_same [k] s
  exact h

/-- The satellite loop leaves for each satellite the result its own search would leave from the start. -/
theorem searchAll_res {ks : List (Fin 24)} (hks : ks.Nodup) {k : Fin 24} (hk : k ∈ ks) (s : State) :
    (searchAll ks s).res.get k = (searchSat k s).res.get k := by
  induction ks generalizing s with
  | nil => cases hk
  | cons l ks ih =>
    obtain ⟨hl, hks⟩ := List.nodup_cons.mp hks
    rw [searchAll_cons]
    rcases List.mem_cons.mp hk with rfl | hk
    · exact (searchAll_other ks k hl (searchSat k s)).2
    · have hlk : l ≠ k := fun e => hl (e ▸ hk)
      rw [ih hks hk]
      exact search_res_congr 1023 0 (searchSat_samp l s) (searchSat_other l k hlk s).1

/-- Equal rows are reported alike. -/
theorem acqDone_res_congr {s : State} {k l : Fin 24} (h : s.bip.get k = s.bip.get l) :
    (acqDone s).res.get k = (acqDone s).res.get l := by
  have hall := fun m : Fin 24 => searchAll_res (List.nodup_finRange 24) (List.mem_finRange m) (clearResults s)
  rw [acqDone_res, hall, hall]
  exact search_res_congr 1023 0 rfl h

/-- An `ACQ` in READY that ends in DONE is a whole run of the correlator. -/
theorem execAcq_complete {s t : State} (hp : s.phase = .ready) (hr : s.rstIn = []) (h : exec .acq s = .next t)
    (hd : t.phase = .done) : t = respond 0 (acqDone s) := by
  rcases execAcq_next h with ⟨hfault, -⟩ | ⟨hrest, -⟩ | ⟨-, ⟨-, rfl⟩ | ⟨-, ⟨-, -, rfl⟩ | ⟨hreset, -⟩⟩⟩
  · cases hp.symm.trans hfault
  · rw [hp] at hrest
    simp at hrest
  · cases hd
  · rfl
  · exact absurd hr hreset

/-- Settles O32: the chips differ only by the combiner bit, and a search sees no more than the samples and its row. -/
theorem degenerateTapPairs : Obligations.DegenerateTapPairs := by
  constructor
  · intro s t ha hr h k l
    rw [chip_of_execGen ha hr h]
    constructor
    · intro heq i
      rw [genChip_row, chipBit_of_equal heq]
      rfl
    · rintro (heq | hswap)
      · exact genChip_row_congr fun _ _ => by rw [heq]
      · exact genChip_row_congr (chipBit_swapped hswap)
  · intro s t hp hr h hd k l hrow
    rw [execAcq_complete hp hr h hd, respond_res]
    exact acqDone_res_congr (Tab.ext_get hrow)

end Sys2Proof.Machine
end

section
/-! The product of a window and a row as an exact sum, and the 16-bit accumulator that holds it (41_correlator R163,
R170). -/

namespace Sys2Proof.Machine

open Sys2Proof

/-- The sum over two rows of values, whatever their length. -/
theorem dot_ofFn (n : Nat) (x : Fin n → BitVec 5) (b : Fin n → Bipolar) :
    dot (List.ofFn fun i => some (x i)) (List.ofFn fun i => some (b i)) =
      some (∑ i, sampleInt (x i) * bipolarInt (b i)) := by
  induction n with
  | zero => rfl
  | succ n ih => rw [List.ofFn_succ, List.ofFn_succ, dot_cons, ih, Option.map_some, Fin.sum_univ_succ]

/-- `c_dot` leaves the sum over the samples and the row as it stands, narrowed to 16 bits. -/
theorem cDot_acc_eq {s : State} {k : Fin 24} {x : Fin 1023 → BitVec 5} {b : Fin 1023 → Bipolar}
    (hx : ∀ i, s.samp.get i = some (x i)) (hb : ∀ i, (s.bip.get k).get i = some (b i)) :
    (cDot k s).acc = some (BitVec.ofInt 16 (dotSum x b)) := by
  rw [cDot_acc, cells_eq_ofFn, cells_eq_ofFn, funext hx, funext hb, dot_ofFn, Option.map_some, dotSum]

/-- Every sample value is in -9..9 (10_state R27). -/
def InRange (x : Fin 1023 → BitVec 5) : Prop := ∀ i, -9 ≤ sampleInt (x i) ∧ sampleInt (x i) ≤ 9

theorem abs_bipolarInt (c : Bipolar) : |bipolarInt c| = 1 := by cases c <;> rfl

/-- 1023 terms of at most 9 each. -/
theorem abs_dotSum_le {x : Fin 1023 → BitVec 5} (hx : InRange x) (b : Fin 1023 → Bipolar) : |dotSum x b| ≤ 9207 := by
  have hterm : ∀ i ∈ Finset.univ, |sampleInt (x i) * bipolarInt (b i)| ≤ 9 := fun i _ => by
    rw [abs_mul, abs_bipolarInt, mul_one]
    exact abs_le.mpr (hx i)
  calc |dotSum x b| ≤ ∑ i, |sampleInt (x i) * bipolarInt (b i)| := Finset.abs_sum_le_sum_abs _ _
    _ ≤ (Finset.univ : Finset (Fin 1023)).card • 9 := Finset.sum_le_card_nsmul _ _ 9 hterm
    _ = 9207 := by rw [Finset.card_fin]; norm_num

theorem toInt_ofInt_dotSum {x : Fin 1023 → BitVec 5} (hx : InRange x) (b : Fin 1023 → Bipolar) :
    (BitVec.ofInt 16 (dotSum x b)).toInt = dotSum x b := by
  obtain ⟨hlo, hhi⟩ := abs_le.mp (abs_dotSum_le hx b)
  exact BitVec.toInt_ofInt_eq_self (by decide) (by omega) (by omega)

/-- Settles O38: a sum of 1023 terms of at most 9 in magnitude fits 16 bits. -/
theorem accumulatorIsExact : Obligations.AccumulatorIsExact := by
  intro s x b k ⟨_, _, hx, hrange, hb⟩
  exact ⟨_, cDot_acc_eq hx (hb k), toInt_ofInt_dotSum hrange (b k), abs_le.mp (abs_dotSum_le hrange (b k))⟩

end Sys2Proof.Machine
end

section
/-! What a search reports: the first offset whose product crosses a threshold, or NOSYNC (41_correlator R165, R167, R172). -/

namespace Sys2Proof.Machine

open Sys2Proof

/-! ### The threshold detector -/

/-- At 828 and above, or at -828 and below, the detector hits, with bit 1 in the first case (41_correlator R165). -/
theorem decideAcc_of_crosses {a : BitVec 16} (h : Crosses a.toInt) : decideAcc a = .hit (decide (828 ≤ a.toInt)) := by
  have hhi : Config.thrHi = 828 := rfl
  have hlo : Config.thrLo = -828 := rfl
  simp only [decideAcc, hitHi, hitLo, hhi, hlo, decide_eq_true_eq]
  split
  next hge => rw [decide_eq_true hge]
  next hlt => rw [if_pos (h.resolve_left hlt), decide_eq_false hlt]

theorem decideAcc_of_not_crosses {a : BitVec 16} (h : ¬Crosses a.toInt) : decideAcc a = .miss := by
  have hhi : Config.thrHi = 828 := rfl
  have hlo : Config.thrLo = -828 := rfl
  obtain ⟨hge, hle⟩ := not_or.mp h
  simp only [decideAcc, hitHi, hitLo, hhi, hlo, decide_eq_true_eq, if_neg hge, if_neg hle]

/-! ### The search of one satellite -/

/-- What a result register reports of the products `p`: the first crossing with its sign and offset, or, where there is
none, NOSYNC (41_correlator R172). -/
def Reports (p : Nat → Int) (r : Result) : Prop :=
  (∃ d, FirstCrossing p d ∧ r = ⟨.found, decide (828 ≤ p d), BitVec.ofNat 10 d⟩) ∨
    ((∀ d, d < 1023 → ¬Crosses (p d)) ∧ r = Result.nosync)

theorem FirstCrossing.unique {p : Nat → Int} {d e : Nat} (hd : FirstCrossing p d) (he : FirstCrossing p e) : d = e := by
  obtain ⟨-, hcd, hbd⟩ := hd
  obtain ⟨-, hce, hbe⟩ := he
  rcases Nat.lt_trichotomy d e with h | h | h
  · exact absurd hcd (hbe d h)
  · exact h
  · exact absurd hce (hbd e h)

section

variable {x : Fin 1023 → BitVec 5} {b : Fin 1023 → Bipolar} {row : Tab (Option Bipolar) 1023} {k : Fin 24}

/-- In a search at offset `d`, the row rotated by `d`, `c_dot` leaves `P_s(d)` exactly (41_correlator R172). -/
theorem cDot_acc_of_isRotr {s : State} {d : Nat} (hx : ∀ i, s.samp.get i = some (x i)) (hrange : InRange x)
    (hrow : ∀ i, row.get i = some (b i)) (hrot : IsRotr d (s.bip.get k) row) :
    ∃ a, (cDot k s).acc = some a ∧ a.toInt = product x b d :=
  ⟨_, cDot_acc_eq hx fun i => (hrot i).trans (hrow (backBy d i)), toInt_ofInt_dotSum hrange _⟩

/-- A search that has met no crossing before offset `d` reports the first from there on. -/
theorem search_reports (n : Nat) {s : State} {d : Nat} (hx : ∀ i, s.samp.get i = some (x i)) (hrange : InRange x)
    (hrow : ∀ i, row.get i = some (b i)) (hd : d + n = 1023) (hrot : IsRotr d (s.bip.get k) row)
    (hbefore : ∀ e, e < d → ¬Crosses (product x b e)) : Reports (product x b) ((search k n d s).res.get k) := by
  induction n generalizing d s with
  | zero =>
    obtain rfl : d = 1023 := hd
    rw [search, markNosync_res, Tab.get_set_self]
    exact .inr ⟨hbefore, rfl⟩
  | succ n ih =>
    obtain ⟨a, ha, hproduct⟩ := cDot_acc_of_isRotr hx hrange hrow hrot
    by_cases hcross : Crosses (product x b d)
    · rw [search_hit n ha (decideAcc_of_crosses (hproduct ▸ hcross)), emitFound_res, Tab.get_set_self, hproduct]
      exact .inl ⟨d, ⟨by omega, hcross, hbefore⟩, rfl⟩
    · rw [search_miss n ha (decideAcc_of_not_crosses (hproduct ▸ hcross))]
      refine ih hx (by omega) (isRotr_cRot (s := cDot k s) hrot) fun e he => ?_
      rcases Nat.lt_succ_iff_lt_or_eq.mp he with he | rfl
      · exact hbefore e he
      · exact hcross

end

/-! ### A whole run -/

section

variable {s t : State} {x : Fin 1023 → BitVec 5} {b : Fin 24 → Fin 1023 → Bipolar}

/-- On a window `ACQ` runs to its end where no reset is coming (41_correlator R169). -/
theorem execAcq_window (hw : Window s x b) (hr : s.rstIn = []) : exec .acq s = .next (respond 0 (acqDone s)) := by
  have hread := window_acqReadable hw
  obtain ⟨hp, hv, -⟩ := hw
  rw [execAcq_run hp ((sfull_iff s).mpr hv) hread, if_pos hr]

theorem eq_of_execAcq_window (hw : Window s x b) (hr : s.rstIn = []) (h : exec .acq s = .next t) :
    t = respond 0 (acqDone s) := Host.Outcome.next.inj (h.symm.trans (execAcq_window hw hr))

theorem acqDone_reports (hw : Window s x b) (k : Fin 24) : Reports (product x (b k)) ((acqDone s).res.get k) := by
  obtain ⟨-, -, hx, hrange, hb⟩ := hw
  rw [acqDone_res, searchAll_res (List.nodup_finRange 24) (List.mem_finRange k)]
  exact search_reports 1023 hx hrange (hb k) (Nat.zero_add 1023) (isRotr_zero _) fun e he => absurd he (Nat.not_lt_zero e)

/-- With no crossing at any offset the result is NOSYNC. -/
theorem acqDone_nosync (hw : Window s x b) {k : Fin 24} (hnone : ∀ d, d < 1023 → ¬Crosses (product x (b k) d)) :
    (acqDone s).res.get k = Result.nosync := by
  rcases acqDone_reports hw k with ⟨d, ⟨hd, hcross, -⟩, -⟩ | ⟨-, hres⟩
  · exact absurd hcross (hnone d hd)
  · exact hres

/-- A first crossing is what the result reports. -/
theorem acqDone_found (hw : Window s x b) {k : Fin 24} {d : Nat} (hd : FirstCrossing (product x (b k)) d) :
    (acqDone s).res.get k = ⟨.found, decide (828 ≤ product x (b k) d), BitVec.ofNat 10 d⟩ := by
  rcases acqDone_reports hw k with ⟨e, he, hres⟩ | ⟨hnone, -⟩
  · rw [hd.unique he]
    exact hres
  · obtain ⟨hlt, hcross, -⟩ := hd
    exact absurd hcross (hnone d hlt)

/-- A satellite that reports NOSYNC has its row back where it was (41_correlator R167, R171). -/
theorem acqDone_row_of_nosync {k : Fin 24} (h : (acqDone s).res.get k = Result.nosync) :
    (acqDone s).bip.get k = s.bip.get k := by
  obtain ⟨-, hrot⟩ := acqDone_searchedRow k s
  have hzero : shiftOf Result.nosync = 0 := rfl
  rw [h, hzero] at hrot
  exact Tab.ext_get fun i => (hrot i).trans (by rw [backBy_zero])

end

/-- Settles O33: each search reports the first crossing of its own products, which are exact. -/
theorem acqReportsFirstCrossing : Obligations.AcqReportsFirstCrossing := by
  intro s x b hw
  constructor
  · intro hr
    refine ⟨_, execAcq_window hw hr, ?_, ?_, fun k => ?_⟩
    · rw [respond_phase, acqDone_phase]
    · exact congrArg (· ++ [0#32]) (acqDone_rsp s)
    · rw [respond_res]
      exact ⟨fun d => acqDone_found hw, acqDone_nosync hw⟩
  · intro hr
    obtain ⟨hp, hv, -⟩ := hw
    exact execAcq_start hp ((sfull_iff s).mpr hv) hr

end Sys2Proof.Machine
end

section
/-! What an `ACQ` on a window leaves: rotated rows, an all-zero window, an aligned satellite (41_correlator R171 to R174). -/

namespace Sys2Proof.Machine

open Sys2Proof

/-- Settles O34: the offset a result reports is the rotation its search left. -/
theorem acqRotatesRows : Obligations.AcqRotatesRows := by
  intro s t x b hw hr h k
  obtain rfl := eq_of_execAcq_window hw hr h
  rw [respond_res, respond_bip]
  obtain ⟨-, hrot⟩ := acqDone_searchedRow k s
  constructor
  · intro hfound
    rw [shiftOf, if_pos hfound] at hrot
    exact hrot
  · intro hnosync
    refine acqDone_row_of_nosync ?_
    rcases acqDone_reports hw k with ⟨d, -, hres⟩ | ⟨-, hres⟩
    · rw [hres] at hnosync
      cases hnosync
    · exact hres

/-! ### An all-zero window -/

theorem product_of_zero {x : Fin 1023 → BitVec 5} (hx : ∀ i, sampleInt (x i) = 0) (b : Fin 1023 → Bipolar) (d : Nat) :
    product x b d = 0 := by
  simp only [product, dotSum, hx, zero_mul, Finset.sum_const_zero]

theorem not_crosses_zero : ¬Crosses 0 := by simp [Crosses]

/-- A run that finds no satellite emits no record. -/
theorem acqDone_emits_nothing {s : State} (h : ∀ k, (acqDone s).res.get k = Result.nosync) : Emits [] s (acqDone s) := by
  have hrecords := acqDone_emits s
  rwa [List.filterMap_eq_nil_iff.mpr fun k _ => by rw [h k]; rfl] at hrecords

/-- Settles O36: every product of an all-zero window is 0, so no search finds anything. -/
theorem allZeroDetectsNothing : Obligations.AllZeroDetectsNothing := by
  intro s x b hw hr hzero
  have hres : ∀ k, (acqDone s).res.get k = Result.nosync := fun k => acqDone_nosync hw fun d _ => by
    rw [product_of_zero hzero]
    exact not_crosses_zero
  obtain ⟨hlog, hdet⟩ := acqDone_emits_nothing hres
  obtain ⟨-, -, -, -, -, herr, -, -, -, -, hrsp⟩ := acqDone_same s
  refine ⟨_, execAcq_window hw hr, ?_⟩
  simp only [respond_phase, respond_err, respond_rsp, respond_detlog, respond_det, respond_res, respond_bip]
  refine ⟨acqDone_phase s, herr, congrArg (· ++ [0#32]) hrsp, ?_, ?_, fun k => ⟨hres k, acqDone_row_of_nosync (hres k)⟩⟩
  · rw [hlog, List.append_nil]
  · rw [hdet, List.map_nil, List.append_nil]

/-! ### An aligned satellite -/

theorem bipolarInt_mul_self (c : Bipolar) : bipolarInt c * bipolarInt c = 1 := by cases c <;> rfl

/-- Samples that are the row rotated by `d`, times a sign, agree with it in every term (40_generator R143). -/
theorem product_of_aligned {x : Fin 1023 → BitVec 5} {b : Fin 1023 → Bipolar} {d : Nat} {sign : Int}
    (hx : ∀ i, sampleInt (x i) = sign * bipolarInt (b (backBy d i))) : product x b d = sign * 1023 := by
  have hterm : ∀ i, sampleInt (x i) * bipolarInt (b (backBy d i)) = sign := fun i => by
    rw [hx, mul_assoc, bipolarInt_mul_self, mul_one]
  simp only [product, dotSum, hterm, Finset.sum_const, Finset.card_fin, nsmul_eq_mul]
  exact mul_comm _ _

/-- A satellite with a crossing at offset `d` is found there or before, and there with the sign of that product. -/
theorem Reports.of_crosses {p : Nat → Int} {r : Result} {d : Nat} (h : Reports p r) (hd : d < 1023) (hcross : Crosses (p d)) :
    r.status = .found ∧ r.offset.toNat ≤ d ∧ (r.offset.toNat = d → r.bit = decide (828 ≤ p d)) := by
  rcases h with ⟨e, ⟨he, -, hbefore⟩, rfl⟩ | ⟨hnone, -⟩
  · rw [toNat_offset he]
    refine ⟨rfl, not_lt.mp fun hlt => hbefore d hlt hcross, ?_⟩
    rintro rfl
    rfl
  · exact absurd hcross (hnone d hd)

/-- Settles O37: the product 1023 or -1023 of an aligned satellite crosses a threshold. -/
theorem alignedSatelliteIsDetected : Obligations.AlignedSatelliteIsDetected := by
  intro s t x b k d sign hw hr hd hsign hx h
  obtain rfl := eq_of_execAcq_window hw hr h
  have hproduct := product_of_aligned hx
  have hsignal : Crosses (sign * 1023) ∧ decide (828 ≤ sign * 1023) = decide (sign = 1) := by
    rcases hsign with rfl | rfl <;> simp [Crosses]
  rw [← hproduct] at hsignal
  obtain ⟨hcross, hbit⟩ := hsignal
  have hfound := (acqDone_reports hw k).of_crosses hd hcross
  rw [hbit] at hfound
  rw [respond_res]
  exact ⟨hproduct, hfound⟩

end Sys2Proof.Machine
end

section
/-! What an `ACQ` reads and what it leaves alone (41_correlator R160, R169). -/

namespace Sys2Proof.Machine

open Sys2Proof

/-! ### Noninterference -/

/-- Two states agree on what a search reads and writes, the ports aside. -/
def SearchAgree (s t : State) : Prop := s.samp = t.samp ∧ s.bip = t.bip ∧ s.res = t.res ∧ s.acc = t.acc

theorem search_agree (k : Fin 24) (n d : Nat) {s t : State} (h : SearchAgree s t) :
    SearchAgree (search k n d s) (search k n d t) := by
  induction n generalizing d s t with
  | zero =>
    obtain ⟨hx, hb, hr, ha⟩ := h
    exact ⟨hx, hb, congrArg (·.set k Result.nosync) hr, ha⟩
  | succ n ih =>
    obtain ⟨hx, hb, hr, -⟩ := h
    have hacc : (cDot k s).acc = (cDot k t).acc := by rw [cDot_acc, cDot_acc, hx, hb]
    rw [search, search, hacc]
    split
    next bit _ => exact ⟨hx, hb, congrArg (·.set k ⟨.found, bit, BitVec.ofNat 10 d⟩) hr, hacc⟩
    next => exact ih (d + 1) ⟨hx, congrArg (fun u => u.set k (rotrTab (u.get k))) hb, hr, hacc⟩

theorem searchAll_agree (ks : List (Fin 24)) {s t : State} (h : SearchAgree s t) :
    SearchAgree (searchAll ks s) (searchAll ks t) := by
  induction ks generalizing s t with
  | nil => exact h
  | cons k ks ih => exact ih (search_agree k 1023 0 h)

/-- A search starts with a product, which overwrites the accumulator. -/
theorem search_overwrites_acc (k : Fin 24) (n d : Nat) (s : State) (a : Option (BitVec 16)) :
    search k (n + 1) d { s with acc := a } = search k (n + 1) d s := rfl

/-- So what the accumulator held before an `ACQ` is not read. -/
theorem searchAll_overwrites_acc (s : State) (a : Option (BitVec 16)) :
    searchAll (List.finRange 24) { s with acc := a } = searchAll (List.finRange 24) s := by
  have hfirst : List.finRange 24 = 0 :: (List.finRange 24).drop 1 := finRange_drop 0
  rw [hfirst, searchAll_cons, searchAll_cons, searchSat, search_overwrites_acc 0 1022, searchSat]

/-- Whole runs from states with the same samples and rows. -/
theorem acqDone_agree {s t : State} (hx : s.samp = t.samp) (hb : s.bip = t.bip) :
    (acqDone s).res = (acqDone t).res ∧ (acqDone s).bip = (acqDone t).bip ∧ (acqDone s).acc = (acqDone t).acc := by
  have h : SearchAgree (searchAll (List.finRange 24) { clearResults s with acc := t.acc })
      (searchAll (List.finRange 24) (clearResults t)) := searchAll_agree _ ⟨hx, hb, rfl, rfl⟩
  rw [searchAll_overwrites_acc] at h
  obtain ⟨-, hbip, hres, hacc⟩ := h
  simp only [acqDone_res, acqDone_bip, acqDone_acc]
  exact ⟨hres, hbip, hacc⟩

/-- Settles O39: a search is a function of the samples, the rows and the results, which `ACQ` clears first. -/
theorem acqReadsSamplesAndRowsOnly : Obligations.AcqReadsSamplesAndRowsOnly := by
  intro s s' t t' hp hp' hr hr' hx hb h h' hd hd'
  obtain rfl := execAcq_complete hp hr h hd
  obtain rfl := execAcq_complete hp' hr' h' hd'
  simp only [respond_res, respond_bip, respond_acc]
  exact acqDone_agree (Tab.ext_get hx) (ext_read2 hb)

/-! ### The frame -/

/-- What `ACQ` never writes: the chips, the shift registers, the samples and their marks, `I`, `TAP` and what the host
offers (41_correlator R169). -/
def SameForAcq (s t : State) : Prop :=
  t.chip = s.chip ∧ t.top = s.top ∧ t.bot = s.bot ∧ t.samp = s.samp ∧ t.svalid = s.svalid ∧ t.ctrI = s.ctrI ∧
    t.tap = s.tap ∧ t.cmdIn = s.cmdIn ∧ t.rstIn = s.rstIn

theorem SameForAcq.refl (s : State) : SameForAcq s s := ⟨rfl, rfl, rfl, rfl, rfl, rfl, rfl, rfl, rfl⟩

theorem SameForAcq.respond {s t : State} (w : Word) (h : SameForAcq s t) : SameForAcq s (respond w t) := h

theorem acqDone_sameForAcq (s : State) : SameForAcq s (acqDone s) := by
  obtain ⟨htop, hbot, hchip, hx, hv, -, hi, htap, hcmd, hrst, -⟩ := acqDone_same s
  exact ⟨hchip, htop, hbot, hx, hv, hi, htap, hcmd, hrst⟩

theorem execAcq_sameForAcq {s t : State} (h : exec .acq s = .next t) : SameForAcq s t := by
  rcases execAcq_next h with ⟨-, rfl⟩ | ⟨-, rfl⟩ | ⟨-, ⟨-, rfl⟩ | ⟨-, ⟨-, -, rfl⟩ | ⟨-, rfl⟩⟩⟩
  · exact .refl s
  · exact .refl s
  · exact .refl s
  · exact (acqDone_sameForAcq s).respond 0
  · exact .refl s

/-- `ACQ` ends in FAULT by error entry or a refusal and nothing else, or it leaves `ERR` as it was (41_correlator R169). -/
theorem execAcq_error {s t : State} (h : exec .acq s = .next t) :
    (t.phase = .fault ∧ SameButResponse s t) ∨ (t.phase ≠ .fault ∧ t.err = s.err) := by
  rcases execAcq_next h with ⟨hfault, rfl⟩ | ⟨-, rfl⟩ | ⟨-, ⟨-, rfl⟩ | ⟨-, ⟨-, -, rfl⟩ | ⟨-, rfl⟩⟩⟩
  · exact .inl ⟨hfault, sameButResponse_respond _ s⟩
  · exact .inl ⟨rfl, sameButResponse_latch _ .seq s⟩
  · exact .inl ⟨rfl, sameButResponse_latch _ .uninit s⟩
  · obtain ⟨-, -, -, -, -, herr, -⟩ := acqDone_same s
    rw [respond_phase, acqDone_phase, respond_err]
    exact .inr ⟨by decide, herr⟩
  · rw [acqStart_phase]
    exact .inr ⟨by decide, acqStart_err s⟩

/-- Settles O51: in FAULT nothing but error entry has happened, and a run or the start of one leaves `ERR` alone. -/
theorem acqFrame : Obligations.AcqFrame := by
  intro s t h
  obtain ⟨hchip, htop, hbot, hx, hv, hi, htap, hcmd, hrst⟩ := execAcq_sameForAcq h
  have hsamples : SameSamples s t := fun i => ⟨by rw [hx], by rw [hv]⟩
  refine ⟨fun k i => by rw [hchip], htop, hbot, hsamples, hi, htap, hcmd, hrst, ?_⟩
  rcases execAcq_error h with ⟨hfault, hregs, htables, -, hhost, herr⟩ | ⟨hne, herr⟩
  · exact ⟨fun hne => absurd hfault hne, fun _ => ⟨hregs, htables, hhost, herr⟩⟩
  · exact ⟨fun _ => herr, fun hfault => absurd hfault hne⟩

end Sys2Proof.Machine
end

section
/-! The micro-operations of the correlator one at a time (41_correlator R161 to R168). -/

namespace Sys2Proof.Machine

open Sys2Proof

/-! ### `c_clr` and `c_mac` -/

theorem bipolarInt_eq_ite (c : Bipolar) : bipolarInt c = if c = .pos then 1 else -1 := by cases c <;> rfl

/-- A sum that fits 16 bits is exact (41_correlator R162, R170). -/
theorem toInt_add_ofInt {a : BitVec 16} {v : Int} (hlo : -32768 ≤ a.toInt + v) (hhi : a.toInt + v < 32768) :
    (a + BitVec.ofInt 16 v).toInt = a.toInt + v := by
  rw [BitVec.toInt_add, BitVec.toInt_ofInt, Int.add_bmod_bmod]
  exact Int.bmod_eq_of_le (by omega) (by omega)

theorem succIndex_of_lt {j : Fin 1023} (h : j.val < 1022) : ∃ l, succIndex j = some l ∧ l.val = j.val + 1 :=
  ⟨⟨j.val + 1, by omega⟩, dif_pos (by omega), rfl⟩

theorem succIndex_of_last {j : Fin 1023} (h : j.val = 1022) : succIndex j = none := dif_neg (by omega)

theorem afterMac_next {j l : Fin 1023} (h : succIndex j = some l) (s : State) :
    afterMac j s = { s with ctrK := some l } := by
  rw [afterMac, h]

theorem afterMac_last {j : Fin 1023} (h : succIndex j = none) (s : State) :
    afterMac j s = { s with mop := some .cDecide } := by
  rw [afterMac, h]

/-- The end of a `c_mac` moves the element counter and the position alone. -/
theorem afterMac_frame (j : Fin 1023) (s : State) :
    afterMac j s = { s with ctrK := (afterMac j s).ctrK, mop := (afterMac j s).mop } := by
  unfold afterMac
  split <;> rfl

theorem afterMac_acc (j : Fin 1023) (s : State) : (afterMac j s).acc = s.acc := by rw [afterMac_frame]

/-- Settles O43: `c_mac` adds one term in 16 bits, and its loop has a next element exactly before the last. -/
theorem microClearAndAccumulate : Obligations.MicroClearAndAccumulate := by
  constructor
  · intro s hp hm
    exact micro_cClr hp hm
  · intro s k j a x c hp hm hk hj ha hx hc
    rw [← bipolarInt_eq_ite]
    refine ⟨_, _, micro_cMac hp hm hk hj ha hx hc, afterMac_acc j _, toInt_add_ofInt, fun hlt => ?_, fun hlast => ?_, ?_⟩
    · obtain ⟨l, hl, hval⟩ := succIndex_of_lt hlt
      rw [afterMac_next hl]
      exact ⟨hm, l, rfl, hval⟩
    · rw [afterMac_last (succIndex_of_last hlast)]
      exact ⟨rfl, hj⟩
    · rw [afterMac_acc]
      exact afterMac_frame j _

/-! ### `c_decide` -/

theorem succSat_eq_some {k l : Fin 24} (h : l.val = k.val + 1) : succSat k = some l := by
  have hlt : k.val + 1 < 24 := h ▸ l.isLt
  rw [succSat, dif_pos hlt]
  exact congrArg some (Fin.ext h.symm)

theorem succSat_of_last {k : Fin 24} (h : k.val = 23) : succSat k = none := dif_neg (by omega)

theorem afterSearch_next {k l : Fin 24} (h : succSat k = some l) (s : State) :
    afterSearch k s = { s with ctrS := some l, ctrD := some 0, mop := some .cClr } := by
  rw [afterSearch, h]

theorem afterSearch_last {k : Fin 24} (h : succSat k = none) (s : State) : afterSearch k s = acqFinish s := by
  rw [afterSearch, h]

/-- The end of a search leaves the rows and the detection port as well as the search left them. -/
theorem afterSearch_bip_det (k : Fin 24) (s : State) :
    (afterSearch k s).bip = s.bip ∧ (afterSearch k s).det = s.det := by
  unfold afterSearch
  split <;> exact ⟨rfl, rfl⟩

/-- Settles O44: `c_decide` is the threshold detector, and a hit ends the search of its satellite. -/
theorem microDecide : Obligations.MicroDecide := by
  intro s k d a hp hm hk hd ha
  by_cases hcross : Crosses a.toInt
  · refine ⟨_, micro_cDecide_hit hp hm hk hd ha (decideAcc_of_crosses hcross), fun _ => ?_, fun ⟨hlo, hhi⟩ => ?_⟩
    · obtain ⟨hres, hlog⟩ := afterSearch_records k (emitFound k (decide (828 ≤ a.toInt)) d s)
      obtain ⟨hbip, -⟩ := afterSearch_bip_det k (emitFound k (decide (828 ≤ a.toInt)) d s)
      rw [hres, hlog, hbip]
      refine ⟨Tab.get_set_self _ _ _, fun l hl => Tab.get_set_ne _ _ hl.symm, rfl, fun _ _ => rfl, fun l hl => ?_,
        fun hlast => ?_⟩
      · rw [afterSearch_next (succSat_eq_some hl)]
        exact ⟨rfl, rfl, rfl, hp, rfl⟩
      · rw [afterSearch_last (succSat_of_last hlast)]
        exact ⟨rfl, rfl, rfl⟩
    · exact absurd hcross (not_or.mpr ⟨not_le.mpr hhi, not_le.mpr hlo⟩)
  · exact ⟨_, micro_cDecide_miss hp hm hk hd ha (decideAcc_of_not_crosses hcross), fun h => absurd h hcross, fun _ => rfl⟩

/-! ### `c_rot` -/

/-- "the value that falls off the end is reinserted at the front" (00_scope R18). -/
theorem rotrTab_get_zero {α : Type} (t : Tab α 1023) : (rotrTab t).get 0 = t.get 1022 := rotrTab_get t 0

theorem rotrTab_get_succ {α : Type} (t : Tab α 1023) {i j : Fin 1023} (h : j.val = i.val + 1) :
    (rotrTab t).get j = t.get i := by
  rw [rotrTab_get, dif_neg (by omega)]
  exact congrArg t.get (Fin.ext (by simp only; omega))

theorem cRot_row_other {k l : Fin 24} (h : l ≠ k) (s : State) : (cRot k s).bip.get l = s.bip.get l :=
  Tab.get_set_ne _ _ h.symm

theorem cRot_row_self (k : Fin 24) (s : State) : (cRot k s).bip.get k = rotrTab (s.bip.get k) := Tab.get_set_self _ _ _

theorem afterRot_of_lt {d : BitVec 10} (h : d.toNat < 1022) (k : Fin 24) (s : State) :
    afterRot k d s = { s with ctrD := some (d + 1), mop := some .cClr } := if_neg (by omega)

theorem afterRot_of_last {d : BitVec 10} (h : d.toNat = 1022) (k : Fin 24) (s : State) :
    afterRot k d s = afterSearch k (markNosync k { s with ctrD := some (d + 1) }) := if_pos (by omega)

/-- Neither the next offset nor the end of a search touches the rows. -/
theorem afterRot_bip (k : Fin 24) (d : BitVec 10) (s : State) : (afterRot k d s).bip = s.bip := by
  unfold afterRot
  split
  · obtain ⟨hbip, -⟩ := afterSearch_bip_det k (markNosync k { s with ctrD := some (d + 1) })
    exact hbip
  · rfl

/-- Settles O45: `c_rot` rotates the row of its satellite, and the search goes on exactly before offset 1022. -/
theorem microRotate : Obligations.MicroRotate := by
  intro s k d hp hm hk hd
  refine ⟨_, micro_cRot hp hm hk hd, ?_⟩
  rw [afterRot_bip]
  simp only [read2]
  rw [cRot_row_self]
  refine ⟨rotrTab_get_zero _, fun i j => rotrTab_get_succ _, fun l i hl => by rw [cRot_row_other hl], fun hlt => ?_,
    fun hlast => ?_⟩
  · exact afterRot_of_lt hlt k _
  · rw [afterRot_of_last hlast]
    obtain ⟨hres, hlog⟩ := afterSearch_records k (markNosync k { cRot k s with ctrD := some (d + 1) })
    obtain ⟨-, hdet⟩ := afterSearch_bip_det k (markNosync k { cRot k s with ctrD := some (d + 1) })
    rw [hres, hlog, hdet]
    exact ⟨Tab.get_set_self _ _ _, fun l hl => Tab.get_set_ne _ _ hl.symm, rfl, rfl⟩

end Sys2Proof.Machine
end

section
/-! A step at rest runs the command its word decodes to (70 R260, 42 R190). -/

namespace Sys2Proof.Machine

open Sys2Proof

/-- Every command but `RST` and `RDSTAT` is refused in FAULT by its own phase check as by the port's (42 R190 step 1). -/
theorem exec_fault {i : Instr} {s : State} (hrst : i ≠ .rst) (hrdstat : i ≠ .rdstat) (hf : s.phase = .fault) :
    exec i s = refuseFaulted s := by
  cases i with
  | rst => exact absurd rfl hrst
  | rdstat => exact absurd rfl hrdstat
  | nop | lds | gen | acq | rdr | rdc | rdb | rds | rdt => exact inPhase_fault _ hf

/-- A word that decodes runs its command, in FAULT too (42 R190). -/
theorem accept_decoded {w : Word} {s : State} {i : Instr} (hd : decode w = .ok i) : accept w s = exec i s := by
  by_cases h : s.phase = .fault ∧ legalInFault w = false
  · obtain ⟨hf, hlegal⟩ := h
    obtain ⟨hop, -⟩ := decode_eq_ok_iff.mp hd
    rw [legalInFault_eq_false_iff, hop] at hlegal
    obtain ⟨h1, h5⟩ := hlegal
    rw [accept_refused ⟨hf, legalInFault_eq_false_iff.mpr (hop ▸ ⟨h1, h5⟩)⟩]
    exact (exec_fault (fun hi => h1 (congrArg opcode hi)) (fun hi => h5 (congrArg opcode hi)) hf).symm
  · rw [accept, if_neg h, hd]

theorem tick_offered {s : State} {w : Word} {ws : List Word} (hb : busy s.phase = false) (hw : s.cmdIn = w :: ws) :
    tick s = accept w { s with cmdIn := ws } := by
  rw [tick, hb, hw]
  rfl

/-- Settles O6: with no reset due the step is a tick, which accepts the word at the head of the queue. -/
theorem stepRunsDecodedCommand : Obligations.StepRunsDecodedCommand := by
  intro s w ws i hb hr hw hd
  calc step s = tick { s with rstIn := later s.rstIn } := step_noReset hr
    _ = accept w { s with cmdIn := ws, rstIn := later s.rstIn } := tick_offered hb hw
    _ = exec i { s with cmdIn := ws, rstIn := later s.rstIn } := accept_decoded hd

end Sys2Proof.Machine
end

section
/-! What the host commands answer: `NOP`, `RST` and the reads of one element (42 R191, R192, R195 to R199). -/

namespace Sys2Proof.Machine

open Sys2Proof

/-- Settles O21: in an accepting phase `NOP` answers on the state as it is. -/
theorem nopResponds : Obligations.NopResponds := fun _ ha => anyPhase_run _ ha

/-- Settles O22: at rest `RST` answers on the state reset leaves. -/
theorem rstResets : Obligations.RstResets := fun _ hb => inAnyPhase_rest _ hb

theorem execRdr_run {s : State} (ha : Accepting s) (k : Fin 24) :
    exec (.rdr k.val) s = .next (respond (recordWord (s.res.get k) (satId k)) s) :=
  (anyPhase_run _ ha).trans (withSat_lt k.isLt s _)

theorem execRdt_run {s : State} (ha : Accepting s) (k : Fin 24) :
    exec (.rdt k.val) s = .next (respond (tapWord (s.tap.get k)) s) :=
  (anyPhase_run _ ha).trans (withSat_lt k.isLt s _)

/-- Settles O25: a legal index answers the record word and the tap word of its satellite. -/
theorem rdrAndRdtRespond : Obligations.RdrAndRdtRespond := fun _ k ha => ⟨execRdr_run ha k, execRdt_run ha k⟩

theorem execRdc_run {s : State} {k : Fin 24} {i : Fin 1023} {c : Bool} (hp : TablesReadable s)
    (hc : read2 s.chip k i = some c) : exec (.rdc k.val i.val) s = .next (respond (chipWord c) s) := by
  rw [exec, execRdc, tablesValid_run _ hp, withSat_lt k.isLt, withIndex_lt i.isLt, hc, withValue_some, answer]

theorem execRdb_run {s : State} {k : Fin 24} {i : Fin 1023} {c : Bipolar} (hp : TablesReadable s)
    (hc : read2 s.bip k i = some c) : exec (.rdb k.val i.val) s = .next (respond (bipWord c) s) := by
  rw [exec, execRdb, tablesValid_run _ hp, withSat_lt k.isLt, withIndex_lt i.isLt, hc, withValue_some, answer]

theorem chipWord_eq_ite (c : Bool) : chipWord c = if c then 1#32 else 0#32 := by cases c <;> rfl

theorem bipWord_eq_ite (c : Bipolar) : bipWord c = if c = .pos then 0x00000001#32 else 0x00000003#32 := by cases c <;> rfl

/-- Settles O27: a legal pair of indices answers the word of the element it names. -/
theorem rdcAndRdbRespond : Obligations.RdcAndRdbRespond := by
  intro s k i hp
  refine ⟨fun c hc => ?_, fun c hc => ?_⟩
  · rw [execRdc_run hp hc, chipWord_eq_ite, respond]
  · rw [execRdb_run hp hc, bipWord_eq_ite, respond]

/-- The two's-complement pattern of a bit vector's integer value is the bit vector (00_scope section 7). -/
theorem tc_toInt {n : Nat} (x : BitVec n) : tc n x.toInt = x.toNat := by
  rw [tc, ← BitVec.toNat_ofInt, BitVec.ofInt_toInt]

theorem sampleWord_eq (v : BitVec 5) : sampleWord v = BitVec.ofNat 32 (tc 5 (sampleInt v)) := by
  rw [sampleInt, tc_toInt, BitVec.ofNat_toNat, sampleWord, BitVec.zeroExtend]

theorem execRds_run {s : State} {i : Fin 1023} {v : BitVec 5} (ha : Accepting s) (hv : s.svalid.get i = true)
    (hx : s.samp.get i = some v) : exec (.rds i.val) s = .next (respond (sampleWord v) s) := by
  rw [exec, execRds, anyPhase_run _ ha, withIndex_lt i.isLt, needSample, if_pos hv, hx, withValue_some, answer]

/-- Settles O28: a marked sample answers the pattern it is stored as. -/
theorem rdsResponds : Obligations.RdsResponds := by
  intro s i v ha hv hx
  rw [execRds_run ha hv hx, sampleWord_eq, respond]

end Sys2Proof.Machine
end

section
/-! `LDS`: the sample it writes, its mark, and what it leaves unchanged (42 R193, 10_state R28, R41). -/

namespace Sys2Proof.Machine

open Sys2Proof

theorem execLds_run {s : State} {v : Int} (ha : Accepting s) (h1 : -9 ≤ v) (h2 : v ≤ 9) (i : Fin 1023) :
    exec (.lds i.val v) s = .next (respond 0 (writeSample i (BitVec.ofInt 5 v) s)) := by
  rw [exec, execLds, anyPhase_run _ ha, withIndex_lt i.isLt, withSample_range h1 h2, answer]

/-- A sample write leaves the registers, the tables and the host's side as they are. -/
theorem writeSample_frame (i : Fin 1023) (x : BitVec 5) (s : State) :
    SameRegisters s (writeSample i x s) ∧ SameTables s (writeSample i x s) ∧ SameHost s (writeSample i x s) := by
  simp [SameRegisters, SameTables, SameHost]

/-- A sample write leaves the other elements as they are. -/
theorem writeSample_other {i j : Fin 1023} (h : j ≠ i) (x : BitVec 5) (s : State) :
    (writeSample i x s).samp.get j = s.samp.get j ∧ (writeSample i x s).svalid.get j = s.svalid.get j :=
  ⟨Tab.get_set_ne _ _ h.symm, Tab.get_set_ne _ _ h.symm⟩

/-- After a sample write `SFULL` asks only for the other marks (10_state R28). -/
theorem sfull_writeSample (i : Fin 1023) (x : BitVec 5) (s : State) :
    sfull (writeSample i x s) = true ↔ ∀ j, j ≠ i → s.svalid.get j = true := by
  rw [sfull_iff]
  constructor
  · intro h j hj
    rw [← (writeSample_other hj x s).2]
    exact h j
  · intro h j
    by_cases hj : j = i
    · rw [hj, writeSample_svalid, Tab.get_set_self]
    · rw [(writeSample_other hj x s).2]
      exact h j hj

/-- Settles O23: a legal `LDS` is one sample write, and the value reads back from the pattern stored. -/
theorem ldsWritesSample : Obligations.LdsWritesSample := by
  intro s i v ha h1 h2
  have hsample : (writeSample i (BitVec.ofInt 5 v) s).samp.get i = some (BitVec.ofInt 5 v) := Tab.get_set_self _ _ _
  exact ⟨_, execLds_run ha h1 h2 i, ⟨_, hsample, sampleInt_ofInt h1 h2⟩, Tab.get_set_self _ _ _,
    fun j hj => writeSample_other hj (BitVec.ofInt 5 v) s, sfull_writeSample i (BitVec.ofInt 5 v) s, rfl, rfl, rfl,
    writeSample_frame i (BitVec.ofInt 5 v) s⟩

/-- `LDS` is refused or enters error entry, or it is a sample write in an accepting phase. -/
theorem execLds_same_or_write {i : Nat} {v : Int} {s t : State} (h : exec (.lds i v) s = .next t) :
    SameButResponse s t ∨
      (Accepting s ∧ ∃ (hi : i < 1023) (x : BitVec 5), t = respond 0 (writeSample ⟨i, hi⟩ x s)) := by
  rcases execLds_next h with ⟨-, rfl⟩ | ⟨ha, ⟨-, rfl⟩ | ⟨hi, ⟨-, rfl⟩ | ⟨-, rfl⟩⟩⟩
  · exact .inl (sameButResponse_respond _ s)
  · exact .inl (sameButResponse_latch _ .index s)
  · exact .inl (sameButResponse_latch _ .range s)
  · exact .inr ⟨ha, hi, _, rfl⟩

/-- Settles O49: without a sample write no element changes, and a sample write changes one and does not end in FAULT. -/
theorem ldsFrame : Obligations.LdsFrame := by
  intro i v s t h
  rcases execLds_same_or_write h with ⟨hregs, htables, hsamples, hhost, herr⟩ | ⟨ha, hi, x, rfl⟩
  · exact ⟨hregs, htables, hhost, herr, fun j _ => hsamples j, fun _ => hsamples⟩
  · obtain ⟨hregs, htables, hhost⟩ := writeSample_frame ⟨i, hi⟩ x s
    exact ⟨hregs, htables, hhost, .inl ⟨rfl, rfl⟩, fun j hj => writeSample_other (Fin.ne_of_val_ne hj) x s,
      fun hfault => absurd hfault (accepting_rest ha).2⟩

end Sys2Proof.Machine
end

section
/-! The error a command raises, and the state an erroneous word leaves (60_exceptions R221 to R228, 42 R190). -/

namespace Sys2Proof.Machine

open Sys2Proof

/-! ### The checks that fail -/

theorem withSat_out {n : Nat} (hn : 23 < n) (s : State) (k : Fin 24 → Out) : withSat n s k = raise .index s :=
  dif_neg (Nat.not_lt_of_le hn)

theorem withIndex_out {n : Nat} (hn : 1022 < n) (s : State) (k : Fin 1023 → Out) : withIndex n s k = raise .index s :=
  dif_neg (Nat.not_lt_of_le hn)

theorem withSample_out {v : Int} (hv : v < -9 ∨ 9 < v) (s : State) (k : BitVec 5 → Out) :
    withSample v s k = raise .range s :=
  if_neg fun ⟨h1, h2⟩ => hv.elim (Int.not_lt_of_ge h1) (Int.not_lt_of_ge h2)

theorem needSample_unwritten {i : Fin 1023} {s : State} (h : s.svalid.get i = false) (k : Out) :
    needSample i s k = raise .uninit s := if_neg (by simp [h])

theorem needSamples_unwritten {s : State} (h : sfull s = false) (k : Out) : needSamples s k = raise .uninit s :=
  if_neg (by simp [h])

/-! ### The error of a command -/

/-- A read of one satellite's register raises the error of its index. -/
theorem satRead_raises {n : Nat} {s : State} {e : Err} {k : Fin 24 → Out} (ha : Accepting s)
    (h : (if 23 < n then some Err.index else none) = some e) : inPhase anyPhase s (withSat n s k) = raise e s := by
  obtain ⟨hn, he⟩ := Option.ite_none_right_eq_some.mp h
  cases he
  rw [anyPhase_run _ ha, withSat_out hn]

/-- A read of a table element raises `E_SEQ` before `E_INDEX`, whichever of its two indices is out of range. -/
theorem tableRead_raises {n i : Nat} {s : State} {e : Err} {k : Fin 24 → Fin 1023 → Out} (ha : Accepting s)
    (h : tableError n i s = some e) :
    inPhase tablesValid s (withSat n s fun l => withIndex i s (k l)) = raise e s := by
  unfold tableError at h
  split at h
  · rename_i hp
    cases h
    have hl : tablesValid s.phase = false := by simp [tablesValid, hp]
    exact inPhase_illegal _ (accepting_rest ha).1 (accepting_rest ha).2 hl
  · rename_i hp
    obtain ⟨hout, he⟩ := Option.ite_none_right_eq_some.mp h
    cases he
    have hr : TablesReadable s := by rwa [not_and_or, not_not, not_not] at hp
    rw [tablesValid_run _ hr]
    by_cases hn : 23 < n
    · rw [withSat_out hn]
    · rw [withSat_lt (by omega), withIndex_out (by omega)]

/-- Outside FAULT the error a command's operands and the state call for is the one it raises. -/
theorem exec_raises {i : Instr} {s : State} {e : Err} (ha : Accepting s) (h : commandError i s = some e) :
    exec i s = raise e s := by
  cases i with
  | nop | rst | gen | rdstat => cases h
  | lds k v =>
    rw [exec, execLds, anyPhase_run _ ha]
    rw [commandError] at h
    split at h
    · cases h
      exact withIndex_out ‹_› s _
    · obtain ⟨hv, he⟩ := Option.ite_none_right_eq_some.mp h
      cases he
      rw [withIndex_lt (by omega), withSample_out hv]
  | acq =>
    rw [commandError] at h
    split at h
    · rename_i hp
      cases h
      have hl : readyOnly s.phase = false := by simp [readyOnly, hp]
      exact inPhase_illegal _ (accepting_rest ha).1 (accepting_rest ha).2 hl
    · rename_i hp
      obtain ⟨hs, he⟩ := Option.ite_none_right_eq_some.mp h
      cases he
      rw [exec, execAcq, readyOnly_run _ (not_not.mp hp), needSamples_unwritten hs]
  | rdr n => exact satRead_raises ha h
  | rdc n k => exact tableRead_raises ha h
  | rdb n k => exact tableRead_raises ha h
  | rds k =>
    rw [exec, execRds, anyPhase_run _ ha]
    rw [commandError] at h
    split at h
    · cases h
      exact withIndex_out ‹_› s _
    · rename_i hk
      obtain ⟨hv, he⟩ := Option.ite_none_right_eq_some.mp h
      cases he
      have hk' : k < 1023 := by omega
      rw [svalid_getElem? s hk'] at hv
      rw [withIndex_lt hk', needSample_unwritten (Option.some.inj hv)]
  | rdt n => exact satRead_raises ha h

/-- `E_FAULTED` is the port's refusal; no command raises it (60_exceptions R227). -/
theorem commandError_ne_faulted (i : Instr) (s : State) : commandError i s ≠ some .faulted := by
  cases i <;> simp only [commandError, tableError] <;> repeat' split
  all_goals decide

theorem exec_errorState {i : Instr} {s : State} {e : Err} (ha : Accepting s) (h : commandError i s = some e) :
    exec i s = .next (errorState e s) := by
  have he : e ≠ .faulted := fun hf => commandError_ne_faulted i s (hf ▸ h)
  rw [exec_raises ha h, raise_eq he]

/-- Settles O14: outside the phase a command needs, the first of its errors is `E_SEQ`. -/
theorem wrongPhaseError : Obligations.WrongPhaseError := by
  intro s n i
  refine ⟨fun hp => ?_, fun hp => ?_⟩
  · exact exec_errorState (hp.imp_right .inr) (if_pos (by rcases hp with hp | hp <;> simp [hp]))
  · exact ⟨exec_errorState (.inl hp) (tableError_idle hp), exec_errorState (.inl hp) (tableError_idle hp)⟩

/-- Settles O15: where a command is legal, an index out of range is the first of its errors. -/
theorem indexOutOfRangeError : Obligations.IndexOutOfRangeError := by
  intro s n i v
  refine ⟨fun ha hi => ?_, fun ha hn => ?_, fun hp hout => ?_⟩
  · exact ⟨exec_errorState ha (if_pos hi), exec_errorState ha (if_pos hi)⟩
  · exact ⟨exec_errorState ha (if_pos hn), exec_errorState ha (if_pos hn)⟩
  · have he : tableError n i s = some .index := (tableError_readable hp n i).trans (if_pos hout)
    exact ⟨exec_errorState (.inr hp) he, exec_errorState (.inr hp) he⟩

/-- Settles O16: with a legal index the value decides; a pattern below 16 stands for itself, one from 16 on for 32 less. -/
theorem sampleOutOfRangeError : Obligations.SampleOutOfRangeError := by
  refine ⟨fun s i v ha hi hv => ?_, fun p hp => ?_⟩
  · exact exec_errorState ha ((if_neg (Nat.not_lt_of_le hi)).trans (if_pos hv))
  · unfold sext5
    split <;> omega

/-- Settles O17: one sample never written leaves `SFULL` clear, and is itself unreadable. -/
theorem unwrittenSampleError : Obligations.UnwrittenSampleError := by
  intro s i hv
  refine ⟨fun hp => ?_, fun ha => ?_⟩
  · have hfull : sfull s = false := Bool.eq_false_iff.mpr fun h => by simp [(sfull_iff s).mp h i] at hv
    exact exec_errorState (.inr (.inl hp)) (by simp [commandError, hp, hfull])
  · refine exec_errorState ha ((if_neg (by omega)).trans (if_pos ?_))
    rw [svalid_getElem? s i.isLt, hv]

end Sys2Proof.Machine
end

section
/-! FAULT: what its refusal and error entry change, and the two ways out (60_exceptions R227, R229, R231). -/

namespace Sys2Proof.Machine

open Sys2Proof

/-! ### The refusal and error entry -/

/-- Settles O12: the port refuses by the opcode, and a command by its own phase check. -/
theorem faultedRefusal : Obligations.FaultedRefusal := by
  refine fun s hf => ⟨fun w h1 h5 => ?_, fun i hrst hrdstat => ?_⟩
  · exact accept_refused ⟨hf, legalInFault_eq_false_iff.mpr ⟨h1, h5⟩⟩
  · exact exec_fault hrst hrdstat hf

/-- In FAULT a word can report an error other than the refusal's only by a reserved bit (60_exceptions R229). -/
theorem firstError_of_fault {w : Word} {s : State} {e : Err} (hf : s.phase = .fault) (h : firstError w s = some e)
    (he : e ≠ .faulted) : e = .field ∧ legalInFault w = true := by
  have hlegal : ¬(s.phase = .fault ∧ legalInFault w = false) := fun hr => by
    cases h.symm.trans (firstError_refused hr)
    exact he rfl
  refine ⟨?_, Bool.eq_true_of_not_eq_false fun hl => hlegal ⟨hf, hl⟩⟩
  cases hd : decode w with
  | ok i =>
    rw [firstError_decoded hlegal hd] at h
    rcases rst_or_rdstat_of_fault hlegal hd hf with rfl | rfl <;> cases h
  | error ill =>
    cases ill with
    | field =>
      cases h.symm.trans (firstError_illegal hlegal hd)
      rfl
    | opcode =>
      have hop := decode_eq_opcode_iff.mp hd
      exact absurd ⟨hf, legalInFault_eq_false_iff.mpr (by omega)⟩ hlegal

/-- Settles O11: error entry writes `ERR`, `PHASE` and the response alone, and it meets a latched code only in FAULT. -/
theorem errorEntry : Obligations.ErrorEntry := by
  refine ⟨fun e s _ _ => ?_, fun w e s hinv _ h he hlatched => ?_⟩
  · obtain ⟨hregs, htables, hsamples, hhost, -⟩ := sameButResponse_latch (errWord e) e s
    exact ⟨_, rfl, rfl, fun h => if_pos h, fun h => if_neg h, rfl, hregs, htables, hsamples, hhost⟩
  · obtain ⟨hfield, hlegal⟩ := firstError_of_fault (hinv.1.mp hlatched) h he
    exact ⟨hfield, of_decide_eq_true hlegal⟩

/-! ### The ways out -/

/-- FAULT is not left and a latched code is not changed (60_exceptions R231). -/
def KeepsFault (s t : State) : Prop := (s.phase = .fault → t.phase = .fault) ∧ (s.err ≠ .none → t.err = s.err)

theorem KeepsFault.of_running {s t : State} (hp : s.phase ≠ .fault) (he : t.err = s.err) : KeepsFault s t :=
  ⟨fun hf => absurd hf hp, fun _ => he⟩

/-- An accepted word other than a well-formed `RST` keeps FAULT. -/
theorem accept_keepsFault {w : Word} {s t : State} (h : accept w s = .next t) :
    decode w = .ok .rst ∨ KeepsFault s t := by
  rcases accept_effect h with ⟨r, rfl⟩ | ⟨e, -, -, rfl⟩ | ⟨hd, -⟩ | ⟨ha, k, v, -, -, rfl⟩ |
    ⟨ha, ⟨-, rfl⟩ | ⟨-, rfl⟩⟩ | ⟨hp, -, ⟨-, -, rfl⟩ | ⟨-, rfl⟩⟩
  · exact .inr ⟨id, fun _ => rfl⟩
  · exact .inr ⟨fun _ => rfl, fun he => if_neg he⟩
  · exact .inl hd
  · exact .inr (.of_running (accepting_rest ha).2 rfl)
  · exact .inr (.of_running (accepting_rest ha).2 rfl)
  · exact .inr (.of_running (accepting_rest ha).2 rfl)
  · obtain ⟨-, -, -, -, -, herr, -⟩ := acqDone_same s
    exact .inr (.of_running (by simp [hp]) ((respond_err 0 _).trans herr))
  · exact .inr (.of_running (by simp [hp]) rfl)

/-- A step that is no reset and accepts no well-formed `RST` keeps FAULT. -/
theorem step_keepsFault {s t : State} (h : step s = .next t) :
    (∃ rest, s.rstIn = 0 :: rest) ∨ (∃ w ws, s.cmdIn = w :: ws ∧ decode w = .ok .rst) ∨ KeepsFault s t := by
  rcases step_next h with ⟨rest, hr, -⟩ | ⟨-, ⟨hb, h⟩ | ⟨-, -, rfl⟩ | ⟨w, ws, -, hw, h⟩⟩
  · exact .inl ⟨rest, hr⟩
  · obtain ⟨-, -, herr, -⟩ := micro_sameInputs h
    have hp : s.phase ≠ .fault := fun hf => by simp [hf, busy] at hb
    exact .inr (.inr (.of_running hp herr))
  · exact .inr (.inr ⟨id, fun _ => rfl⟩)
  · exact .inr ((accept_keepsFault h).imp (fun hd => ⟨w, ws, hw, hd⟩) id)

/-- Settles O18: of all that a step does only the reset input and `RST` clear the latch, and `RST` has one encoding. -/
theorem faultLeftOnlyByReset : Obligations.FaultLeftOnlyByReset := by
  intro s t h hleft
  rcases step_keepsFault h with hr | ⟨w, ws, hw, hd⟩ | ⟨hphase, herr⟩
  · exact .inl hr
  · obtain ⟨-, hword⟩ := encodeOfDecode w .rst hd
    have hrst : w = 0x10000000#32 := hword.symm.trans (by decide)
    exact .inr ⟨ws, hrst ▸ hw⟩
  · rcases hleft with ⟨hs, ht⟩ | ⟨hs, ht⟩
    · exact absurd (hphase hs) ht
    · exact absurd (herr hs) ht

end Sys2Proof.Machine
end

section
/-! The response of a word with no error (60_exceptions R228), and the safety predicate of 60_exceptions R231. -/

namespace Sys2Proof.Machine

open Sys2Proof

/-! ### The error reported -/

/-- A word that is not refused enters error entry with its first error. -/
theorem accept_raises {w : Word} {s : State} {e : Err} (hb : busy s.phase = false)
    (hlegal : ¬(s.phase = .fault ∧ legalInFault w = false)) (h : firstError w s = some e) :
    accept w s = raise e s ∧ e ≠ .faulted := by
  cases hd : decode w with
  | error ill =>
    cases h.symm.trans (firstError_illegal hlegal hd)
    exact ⟨accept_illegal hlegal hd, by cases ill <;> decide⟩
  | ok i =>
    rw [firstError_decoded hlegal hd] at h
    have hf : s.phase ≠ .fault := fun hf => by
      rcases rst_or_rdstat_of_fault hlegal hd hf with rfl | rfl <;> cases h
    rw [accept_decoded hd]
    exact ⟨exec_raises (accepting_of_rest hb hf) h, fun he => commandError_ne_faulted i s (he ▸ h)⟩

/-- A word that reports no error decodes, to a command that calls for none. -/
theorem decode_of_firstError_none {w : Word} {s : State} (h : firstError w s = none) :
    ∃ i, decode w = .ok i ∧ commandError i s = none ∧ (s.phase = .fault → i = .rst ∨ i = .rdstat) := by
  have hlegal : ¬(s.phase = .fault ∧ legalInFault w = false) := fun hr => by cases h.symm.trans (firstError_refused hr)
  cases hd : decode w with
  | error ill => cases h.symm.trans (firstError_illegal hlegal hd)
  | ok i => exact ⟨i, rfl, (firstError_decoded hlegal hd).symm.trans h, rst_or_rdstat_of_fault hlegal hd⟩

/-! ### Responses without the error flag -/

/-- What is answered, if anything is, carries no error flag (30_encoding R103). -/
def ClearResponse (s t : State) : Prop := t.rsp = s.rsp ∨ ∃ r, t.rsp = s.rsp ++ [r] ∧ r.getLsbD 31 = false

theorem ClearResponse.last {s t : State} {r : Word} (h : ClearResponse s t) (hr : t.rsp = s.rsp ++ [r]) :
    r.getLsbD 31 = false := by
  rcases h with hsame | ⟨r', hr', hflag⟩
  · simp [hsame] at hr
  · rw [hr, List.append_cancel_left_eq, List.singleton_inj] at hr'
    rwa [hr']

theorem ClearResponse.noErrorResponse {s t : State} (h : ClearResponse s t) (hs : NoErrorResponse s) :
    NoErrorResponse t := by
  rcases h with hsame | ⟨r, hr, hflag⟩
  · rwa [NoErrorResponse, hsame]
  · rw [NoErrorResponse, hr, List.forall_mem_append, List.forall_mem_singleton]
    exact ⟨hs, hflag⟩

/-- An outcome with another reset schedule in the state it leaves. -/
def withSchedule (r : List Nat) : Out → Out
  | .next t => .next { t with rstIn := r }
  | .fault e => .fault e
  | .refused e => .refused e

theorem withSchedule_withValue {α : Type} (r : List Nat) (v : Option α) (k : α → Out) :
    withSchedule r (withValue v k) = withValue v fun a => withSchedule r (k a) := by cases v <;> rfl

/-- No command but `GEN` and `ACQ` looks at the reset schedule. -/
theorem exec_schedule {i : Instr} (hgen : i ≠ .gen) (hacq : i ≠ .acq) (s : State) (r : List Nat) :
    exec i { s with rstIn := r } = withSchedule r (exec i s) := by
  cases i with
  | gen => exact absurd rfl hgen
  | acq => exact absurd rfl hacq
  | nop | rst | rdstat | lds | rdr | rdt | rdc | rdb | rds =>
    simp only [exec, execNop, execRst, execRdstat, execLds, execRdr, execRdt, execRdc, execRdb, execRds, inPhase,
      inAnyPhase, withSat, withIndex, withSample, needSample, apply_ite (withSchedule r), apply_dite (withSchedule r),
      withSchedule_withValue]
    rfl

theorem commandError_schedule (i : Instr) (s : State) (r : List Nat) :
    commandError i { s with rstIn := r } = commandError i s := by cases i <;> rfl

/-- With no reset coming, a command that calls for no error answers its result. -/
theorem exec_clear_of_noReset {i : Instr} {s t : State} (hf : s.phase = .fault → i = .rst ∨ i = .rdstat)
    (hr : s.rstIn = []) (hnone : commandError i s = none) (h : exec i s = .next t) : ClearResponse s t := by
  rcases exec_answers hf hr h with ⟨e, he, -⟩ | ⟨-, r, ht, hflag, -⟩
  · cases hnone.symm.trans he
  · exact .inr ⟨r, ht, hflag⟩

/-- A command that calls for no error answers without the flag; with a reset coming `GEN` and `ACQ` only start. -/
theorem exec_clear {i : Instr} {s t : State} (hf : s.phase = .fault → i = .rst ∨ i = .rdstat)
    (hnone : commandError i s = none) (h : exec i s = .next t) : ClearResponse s t := by
  by_cases hr : s.rstIn = []
  · exact exec_clear_of_noReset hf hr hnone h
  by_cases hgen : i = .gen
  · subst hgen
    rcases execGen_next h with ⟨hfault, -⟩ | ⟨-, ⟨hr', -⟩ | ⟨-, rfl⟩⟩
    · simpa using hf hfault
    · exact absurd hr' hr
    · exact .inl rfl
  by_cases hacq : i = .acq
  · subst hacq
    rcases execAcq_next h with ⟨hfault, -⟩ | ⟨hp, -⟩ | ⟨hp, ⟨hs, -⟩ | ⟨-, ⟨hr', -, -⟩ | ⟨-, rfl⟩⟩⟩
    · simpa using hf hfault
    · rcases hp with hp | hp <;> simp [commandError, hp] at hnone
    · simp [commandError, hp, hs] at hnone
    · exact absurd hr' hr
    · exact .inl rfl
  have hquiet : exec i { s with rstIn := [] } = .next { t with rstIn := [] } := by
    rw [exec_schedule hgen hacq, h]
    rfl
  exact exec_clear_of_noReset (s := { s with rstIn := [] }) (t := { t with rstIn := [] }) hf rfl
    ((commandError_schedule i s []).trans hnone) hquiet

/-- Settles O10: a word with a first error is refused or enters error entry with it, any other runs its command. -/
theorem priorityOfErrors : Obligations.PriorityOfErrors := by
  refine fun w s hb => ⟨fun e h => ?_, fun h => ?_⟩
  · by_cases hrefused : s.phase = .fault ∧ legalInFault w = false
    · cases h.symm.trans (firstError_refused hrefused)
      exact accept_refused hrefused
    · obtain ⟨hraise, he⟩ := accept_raises hb hrefused h
      rw [hraise, raise_eq he]
  · obtain ⟨i, hd, hnone, hf⟩ := decode_of_firstError_none h
    exact ⟨i, hd, accept_decoded hd, fun t r ht hr => (exec_clear hf hnone ht).last hr⟩

/-! ### Safety -/

theorem afterChip_rsp (k : Fin 24) (i : Fin 1023) (s : State) : (afterChip k i s).rsp = s.rsp := by
  unfold afterChip
  split <;> rfl

theorem afterMap_clear (k : Fin 24) (i : Fin 1023) (s : State) : ClearResponse s (afterMap k i s) := by
  unfold afterMap
  split
  · exact .inl rfl
  · exact .inr ⟨0, rfl, rfl⟩

theorem afterMac_rsp (j : Fin 1023) (s : State) : (afterMac j s).rsp = s.rsp := by
  unfold afterMac
  split <;> rfl

theorem afterSearch_clear (k : Fin 24) (s : State) : ClearResponse s (afterSearch k s) := by
  unfold afterSearch
  split
  · exact .inl rfl
  · exact .inr ⟨0, rfl, rfl⟩

theorem afterRot_clear (k : Fin 24) (d : BitVec 10) (s : State) : ClearResponse s (afterRot k d s) := by
  unfold afterRot
  split
  · exact afterSearch_clear k _
  · exact .inl rfl

/-- The sequencer answers only at the end of a command, and with zero (40_generator R137, 41_correlator R169). -/
theorem micro_clear {s t : State} (h : micro s = .next t) : ClearResponse s t := by
  rcases micro_cases h with ⟨-, h⟩ | ⟨-, h⟩
  · rcases h with ⟨-, rfl⟩ | ⟨-, k, i, x, y, -, -, -, -, rfl⟩ | ⟨-, x, -, rfl⟩ | ⟨-, k, i, y, -, -, -, rfl⟩ |
      ⟨-, k, i, c, -, -, -, rfl⟩
    · exact .inl rfl
    · exact .inl rfl
    · exact .inl rfl
    · exact .inl (afterChip_rsp k i _)
    · exact afterMap_clear k i _
  · rcases h with ⟨-, rfl⟩ | ⟨-, k, j, a, x, c, -, -, -, -, -, rfl⟩ |
      ⟨-, k, d, a, -, -, -, ⟨bit, -, rfl⟩ | ⟨-, rfl⟩⟩ | ⟨-, k, d, -, -, rfl⟩
    · exact .inl rfl
    · exact .inl (afterMac_rsp j _)
    · exact afterSearch_clear k _
    · exact .inl rfl
    · exact afterRot_clear k d _

/-- A command that answers without the flag has not entered FAULT. -/
theorem exec_not_fault {i : Instr} {s t : State} (hf : s.phase ≠ .fault) (hclear : ClearResponse s t)
    (h : exec i s = .next t) : t.phase ≠ .fault := by
  obtain ⟨-, ⟨w, rfl⟩ | ⟨e, -, -, -, rfl⟩ | ⟨-, rfl⟩ | ⟨-, k, v, -, -, -, rfl⟩ | ⟨-, -, ⟨-, rfl⟩ | ⟨-, rfl⟩⟩ |
    ⟨-, -, -, ⟨-, -, rfl⟩ | ⟨-, rfl⟩⟩⟩ := exec_effect h
  · exact hf
  · cases (errWord_flag e).symm.trans (hclear.last rfl)
  · simp
  · exact hf
  · simp
  · simp
  · simp
  · simp

/-- FAULT entered with an error response, or stayed out of without one. -/
def SafeOrError (s t : State) : Prop :=
  (t.phase = .fault ∧ ∃ e, t.rsp = s.rsp ++ [errWord e]) ∨ (t.phase ≠ .fault ∧ ClearResponse s t)

theorem accept_safeOrError {w : Word} {s t : State} (hb : busy s.phase = false) (hf : s.phase ≠ .fault)
    (h : accept w s = .next t) : SafeOrError s t := by
  cases he : firstError w s with
  | some e =>
    obtain ⟨hraise, -⟩ := accept_raises hb (fun hr => hf hr.1) he
    cases raise_next (hraise.symm.trans h)
    exact .inl ⟨rfl, e, rfl⟩
  | none =>
    obtain ⟨i, hd, hnone, hlegal⟩ := decode_of_firstError_none he
    rw [accept_decoded hd] at h
    have hclear := exec_clear hlegal hnone h
    exact .inr ⟨exec_not_fault hf hclear h, hclear⟩

theorem step_safeOrError {s t : State} (hf : s.phase ≠ .fault) (h : step s = .next t) : SafeOrError s t := by
  rcases step_next h with ⟨rest, -, rfl⟩ | ⟨-, ⟨-, h⟩ | ⟨-, -, rfl⟩ | ⟨w, ws, hb, -, h⟩⟩
  · exact .inr ⟨by simp, .inl rfl⟩
  · have hphase : t.phase ≠ .fault := by
      rcases micro_phase h with ⟨-, hp | hp⟩ | ⟨-, hp | hp⟩ <;> simp [hp]
    exact .inr ⟨hphase, micro_clear (s := { s with rstIn := later s.rstIn }) h⟩
  · exact .inr ⟨hf, .inl rfl⟩
  · exact accept_safeOrError (s := { s with cmdIn := ws, rstIn := later s.rstIn }) hb hf h

/-- Settles O20: a state whose latch is right is safe where it is not in FAULT, and FAULT is entered with an error response
alone. -/
theorem safeWhileNoErrorResponse : Obligations.SafeWhileNoErrorResponse := by
  intro s t hinv hsafe hno h
  have hf : s.phase ≠ .fault := fun hf => hinv.latch.1.mpr hf hsafe
  have hlatch : LatchInv t := latchKept s t hinv.latch h
  rcases step_safeOrError hf h with ⟨hp, e, hrsp⟩ | ⟨hp, hclear⟩
  · refine iff_of_false (hlatch.1.mpr hp) fun hno' => ?_
    have hflag : (errWord e).getLsbD 31 = false := hno' _ (by simp [hrsp])
    cases (errWord_flag e).symm.trans hflag
  · exact iff_of_true ((latchInv_iff_of_not_fault hp).mp hlatch) (hclear.noErrorResponse hno)

end Sys2Proof.Machine
end

section
/-! No step stops the machine where the invariant holds: every value a command or a micro-operation reads is present
(10_state R40, 60_exceptions R230). -/

namespace Sys2Proof.Machine

open Sys2Proof

/-! ### Values present -/

theorem genChip_present (tap : Tab TapPair 24) (k : Fin 24) (i : Fin 1023) : ∃ c, read2 (genChip tap) k i = some c :=
  ⟨_, genChip_read tap k i⟩

theorem genBip_present (tap : Tab TapPair 24) (k : Fin 24) (i : Fin 1023) :
    ∃ c, read2 (genBip (genChip tap)) k i = some c := by
  obtain ⟨c, hc⟩ := genChip_present tap k i
  exact ⟨bip c, by rw [genBip_read, hc, Option.map_some]⟩

/-- A rotation of a canonical row holds a value in every element. -/
theorem rowRotated_present {d : Nat} {k : Fin 24} {s : State} (h : RowRotated d k s) (i : Fin 1023) :
    ∃ c, read2 s.bip k i = some c := by
  obtain ⟨c, hc⟩ := genBip_present s.tap k (backBy d i)
  exact ⟨c, (h i).trans hc⟩

/-- What the commands read at rest: marked samples hold values, and with a completed `GEN` so do both tables. -/
def ReadsPresent (s : State) : Prop :=
  (∀ i, s.svalid.get i = true → ∃ x, s.samp.get i = some x) ∧
    (TablesReadable s → ∀ k i, (∃ c, read2 s.chip k i = some c) ∧ ∃ c, read2 s.bip k i = some c)

theorem readsPresent_of_inv {s : State} (h : Inv s) : ReadsPresent s := by
  obtain ⟨-, hpresent, -⟩ := h.sample
  have htables := h.tables
  refine ⟨fun i hi => (hpresent i hi).imp fun _ hx => hx.1, fun hp k i => ?_⟩
  rcases hp with hp | hp <;> rw [TablesInv, hp] at htables
  · obtain ⟨hchip, hbip⟩ := htables
    rw [hbip, hchip]
    exact ⟨genChip_present s.tap k i, genBip_present s.tap k i⟩
  · obtain ⟨hchip, hrows⟩ := htables
    exact ⟨hchip ▸ genChip_present s.tap k i, rowRotated_present (hrows k) i⟩

/-! ### Commands -/

/-- The machine does not stop. -/
def Continues (o : Out) : Prop := ∃ t, o = .next t

theorem continues_inPhase {legal : Phase → Bool} {s : State} {k : Out} (hb : busy s.phase = false)
    (h : legal s.phase = true → Continues k) : Continues (inPhase legal s k) := by
  by_cases hf : s.phase = .fault
  · exact ⟨_, inPhase_fault k hf⟩
  cases hl : legal s.phase with
  | false => exact ⟨_, inPhase_illegal k hb hf hl⟩
  | true =>
    rw [inPhase_legal k hb hf hl]
    exact h hl

theorem continues_withSat {n : Nat} {s : State} {k : Fin 24 → Out} (h : ∀ l, Continues (k l)) :
    Continues (withSat n s k) := by
  unfold withSat
  split
  · exact h _
  · exact ⟨_, rfl⟩

theorem continues_withIndex {n : Nat} {s : State} {k : Fin 1023 → Out} (h : ∀ j, Continues (k j)) :
    Continues (withIndex n s k) := by
  unfold withIndex
  split
  · exact h _
  · exact ⟨_, rfl⟩

theorem continues_withSample {v : Int} {s : State} {k : BitVec 5 → Out} (h : ∀ x, Continues (k x)) :
    Continues (withSample v s k) := by
  unfold withSample
  split
  · exact h _
  · exact ⟨_, rfl⟩

theorem continues_needSample {i : Fin 1023} {s : State} {k : Out} (h : s.svalid.get i = true → Continues k) :
    Continues (needSample i s k) := by
  unfold needSample
  split
  · exact h ‹_›
  · exact ⟨_, rfl⟩

theorem continues_needSamples {s : State} {k : Out} (h : sfull s = true → Continues k) :
    Continues (needSamples s k) := by
  unfold needSamples
  split
  · exact h ‹_›
  · exact ⟨_, rfl⟩

theorem continues_withValue {α : Type} {v : Option α} {k : α → Out} (hv : ∃ a, v = some a) (h : ∀ a, Continues (k a)) :
    Continues (withValue v k) := by
  obtain ⟨a, rfl⟩ := hv
  exact h a

/-- With a full window in READY an `ACQ` finds every value it reads. -/
theorem ReadsPresent.acqReadable {s : State} (h : ReadsPresent s) (hp : s.phase = .ready) (hs : sfull s = true) :
    acqReadable s = true := by
  obtain ⟨hsamp, htables⟩ := h
  refine (acqReadable_iff s).mpr ⟨fun i => ?_, fun k i => ?_⟩
  · exact Option.isSome_iff_exists.mpr (hsamp i ((sfull_iff s).mp hs i))
  · exact Option.isSome_iff_exists.mpr (htables (.inl hp) k i).2

theorem tablesReadable_of_tablesValid {s : State} (h : tablesValid s.phase = true) : TablesReadable s := by
  simpa [tablesValid, TablesReadable] using h

/-- Where the values are present no command stops at rest. -/
theorem exec_continues {s : State} (hb : busy s.phase = false) (h : ReadsPresent s) (i : Instr) :
    Continues (exec i s) := by
  have hreads := h
  obtain ⟨hsamp, htables⟩ := h
  cases i with
  | nop => exact continues_inPhase hb fun _ => ⟨_, rfl⟩
  | rst => exact ⟨_, inAnyPhase_rest _ hb⟩
  | lds k v =>
    exact continues_inPhase hb fun _ => continues_withIndex fun _ => continues_withSample fun _ => ⟨_, rfl⟩
  | gen =>
    refine continues_inPhase hb fun _ => ?_
    split <;> exact ⟨_, rfl⟩
  | acq =>
    refine continues_inPhase hb fun hl => continues_needSamples fun hs => ?_
    split
    · rw [needTables, if_pos (hreads.acqReadable (of_decide_eq_true hl) hs)]
      exact ⟨_, rfl⟩
    · exact ⟨_, rfl⟩
  | rdstat => exact ⟨_, inAnyPhase_rest _ hb⟩
  | rdr n => exact continues_inPhase hb fun _ => continues_withSat fun _ => ⟨_, rfl⟩
  | rdc n k =>
    refine continues_inPhase hb fun hl => continues_withSat fun l => continues_withIndex fun j => ?_
    exact continues_withValue (htables (tablesReadable_of_tablesValid hl) l j).1 fun _ => ⟨_, rfl⟩
  | rdb n k =>
    refine continues_inPhase hb fun hl => continues_withSat fun l => continues_withIndex fun j => ?_
    exact continues_withValue (htables (tablesReadable_of_tablesValid hl) l j).2 fun _ => ⟨_, rfl⟩
  | rds k =>
    refine continues_inPhase hb fun _ => continues_withIndex fun j => continues_needSample fun hv => ?_
    exact continues_withValue (hsamp j hv) fun _ => ⟨_, rfl⟩
  | rdt n => exact continues_inPhase hb fun _ => continues_withSat fun _ => ⟨_, rfl⟩

theorem accept_continues {s : State} (hb : busy s.phase = false) (h : ReadsPresent s) (w : Word) :
    Continues (accept w s) := by
  cases hd : decode w with
  | ok i =>
    rw [accept_decoded hd]
    exact exec_continues hb h i
  | error e =>
    by_cases hrefused : s.phase = .fault ∧ legalInFault w = false
    · exact ⟨_, accept_refused hrefused⟩
    · exact ⟨_, accept_illegal hrefused hd⟩

/-! ### Micro-operations -/

theorem micro_continues_genRun {s : State} (hp : s.phase = .genRun) (h : Inv s) : Continues (micro s) := by
  have hg := (positionInv_genRun hp).mp h.position
  have hprog := (tablesInv_genRun hp).mp h.tables
  obtain ⟨-, -, ⟨hm, -, -⟩ | ⟨⟨k, hk⟩, ⟨i, hi⟩, ⟨x, hx⟩, ⟨y, hy⟩, hm | hm | hm | hm⟩⟩ := hg
  · exact ⟨_, micro_gInit hp hm⟩
  · exact ⟨_, micro_gChip hp hm hk hi hx hy⟩
  · exact ⟨_, micro_gTop hp hm hx⟩
  · exact ⟨_, micro_gBot hp hm hk hi hy⟩
  · obtain ⟨hchip, -⟩ := hprog _ _ _ hm hk hi
    obtain ⟨c, hc⟩ := genChip_present s.tap k i
    exact ⟨_, micro_gMap hp hm hk hi (hchip ▸ hc)⟩

theorem micro_continues_acqRun {s : State} (hp : s.phase = .acqRun) (h : Inv s) : Continues (micro s) := by
  obtain ⟨-, ⟨k, hk⟩, ⟨d, hd, -⟩, hm | ⟨hm, ⟨j, hj⟩, a, ha⟩ | ⟨hm, a, ha⟩ | hm⟩ := (positionInv_acqRun hp).mp h.position
  · exact ⟨_, micro_cClr hp hm⟩
  · obtain ⟨-, hpresent, hfull⟩ := h.sample
    obtain ⟨x, hx, -⟩ := hpresent j ((sfull_iff s).mp (hfull hp) j)
    obtain ⟨-, hrow, -⟩ := rowsInSearch_of_tablesInv h.tables hp hk hd
    obtain ⟨c, hc⟩ := rowRotated_present hrow j
    exact ⟨_, micro_cMac hp hm hk hj ha hx hc⟩
  · cases hdec : decideAcc a with
    | hit bit => exact ⟨_, micro_cDecide_hit hp hm hk hd ha hdec⟩
    | miss => exact ⟨_, micro_cDecide_miss hp hm hk hd ha hdec⟩
  · exact ⟨_, micro_cRot hp hm hk hd⟩

theorem micro_continues {s : State} (hb : busy s.phase = true) (h : Inv s) : Continues (micro s) := by
  cases hp : s.phase with
  | genRun => exact micro_continues_genRun hp h
  | acqRun => exact micro_continues_acqRun hp h
  | idle | ready | done | fault => simp [hp, busy] at hb

/-! ### Every step -/

/-- The invariant says nothing of the words offered or the reset schedule. -/
theorem inv_host {s : State} (h : Inv s) (ws : List Word) (r : List Nat) : Inv { s with cmdIn := ws, rstIn := r } :=
  ⟨h.latch, h.sample, h.position, h.result, h.log, h.tables⟩

theorem tick_continues {s : State} (h : Inv s) : Continues (tick s) := by
  cases hb : busy s.phase with
  | true =>
    rw [tick, if_pos hb]
    exact micro_continues hb h
  | false =>
    cases hw : s.cmdIn with
    | nil =>
      refine ⟨s, ?_⟩
      rw [tick, hb, hw]
      rfl
    | cons w ws =>
      rw [tick_offered hb hw]
      exact accept_continues (s := { s with cmdIn := ws }) hb (readsPresent_of_inv (inv_host h ws s.rstIn)) w

/-- Settles O60: a reset never stops, a command at rest finds its values present, and a micro-operation those of its
position. -/
theorem noStepStops : Obligations.NoStepStops := by
  intro s h
  unfold step
  split
  · exact tick_continues h
  · exact ⟨_, rfl⟩
  · exact tick_continues (inv_host h s.cmdIn _)

end Sys2Proof.Machine
end

section
/-! The reset input and the command port (60_exceptions R239, 70 R261, R262, R267), and the order of the phases
(20_memory R69, 70 R266). -/

namespace Sys2Proof.Machine

open Sys2Proof

/-! ### The reset input -/

theorem step_resetDue {s : State} {rest : List Nat} (hr : s.rstIn = 0 :: rest) :
    step s = .next (applyReset { s with rstIn := rest }) := by
  rw [step, hr]
  rfl

/-- Settles O8: a step in which reset is due is `applyReset`, whatever the phase. -/
theorem resetInputActsAtOnce : Obligations.ResetInputActsAtOnce := by
  intro s rest hr
  exact ⟨applyReset { s with rstIn := rest }, step_resetDue hr, by simp [CountersAbsent]⟩

/-! ### The command port -/

/-- Between the host and the machine a micro-operation does nothing while its command goes on, and answers zero at its
end (70 R267). -/
def PortHeld (s t : State) : Prop :=
  t.cmdIn = s.cmdIn ∧ t.rstIn = s.rstIn ∧
    ((t.phase = s.phase ∧ t.rsp = s.rsp) ∨ (busy t.phase = false ∧ t.rsp = s.rsp ++ [0#32]))

theorem PortHeld.refl (s : State) : PortHeld s s := ⟨rfl, rfl, .inl ⟨rfl, rfl⟩⟩

theorem afterChip_portHeld (k : Fin 24) (i : Fin 1023) (s : State) : PortHeld s (afterChip k i s) := by
  unfold afterChip
  split <;> exact .refl s

theorem afterMap_portHeld (k : Fin 24) (i : Fin 1023) (s : State) : PortHeld s (afterMap k i s) := by
  unfold afterMap
  split
  · exact .refl s
  · exact ⟨rfl, rfl, .inr ⟨rfl, rfl⟩⟩

theorem afterMac_portHeld (j : Fin 1023) (s : State) : PortHeld s (afterMac j s) := by
  unfold afterMac
  split <;> exact .refl s

theorem afterSearch_portHeld (k : Fin 24) (s : State) : PortHeld s (afterSearch k s) := by
  unfold afterSearch
  split
  · exact .refl s
  · exact ⟨rfl, rfl, .inr ⟨rfl, rfl⟩⟩

theorem afterRot_portHeld (k : Fin 24) (d : BitVec 10) (s : State) : PortHeld s (afterRot k d s) := by
  unfold afterRot
  split
  · exact afterSearch_portHeld k _
  · exact .refl s

theorem micro_portHeld {s t : State} (h : micro s = .next t) : PortHeld s t := by
  rcases micro_cases h with ⟨-, h⟩ | ⟨-, h⟩
  · rcases h with ⟨-, rfl⟩ | ⟨-, k, i, x, y, -, -, -, -, rfl⟩ | ⟨-, x, -, rfl⟩ | ⟨-, k, i, y, -, -, -, rfl⟩ |
      ⟨-, k, i, c, -, -, -, rfl⟩
    · exact .refl s
    · exact .refl s
    · exact .refl s
    · exact afterChip_portHeld k i _
    · exact afterMap_portHeld k i _
  · rcases h with ⟨-, rfl⟩ | ⟨-, k, j, a, x, c, -, -, -, -, -, rfl⟩ |
      ⟨-, k, d, a, -, -, -, ⟨bit, -, rfl⟩ | ⟨-, rfl⟩⟩ | ⟨-, k, d, -, -, rfl⟩
    · exact .refl s
    · exact afterMac_portHeld j _
    · exact afterSearch_portHeld k _
    · exact .refl s
    · exact afterRot_portHeld k d _

theorem tick_busy {s : State} (hb : busy s.phase = true) : tick s = micro s := if_pos hb

theorem tick_waits {s : State} (hb : busy s.phase = false) (hw : s.cmdIn = []) : tick s = .next s := by
  rw [tick, hb, hw]
  rfl

/-- Settles O7: with no reset due a busy step is a micro-operation, and a step at rest with no word offered a wait. -/
theorem portHoldsAndWaits : Obligations.PortHoldsAndWaits := by
  refine ⟨fun s t hb hr h => ?_, fun s hb hw hr => ?_⟩
  · have hmicro : micro { s with rstIn := later s.rstIn } = .next t :=
      (tick_busy (s := { s with rstIn := later s.rstIn }) hb).symm.trans ((step_noReset hr).symm.trans h)
    obtain ⟨hcmd, hrst, hport⟩ := micro_portHeld hmicro
    exact ⟨hcmd, hrst, hport.imp_left (And.imp_left fun hp => (congrArg busy hp).trans hb)⟩
  · calc step s = tick s := by rw [step, hr]
      _ = .next s := tick_waits hb hw

/-! ### The order of the phases -/

/-- An accepted word enters no search and no end of one but from READY (41_correlator R169). -/
theorem accept_phase {w : Word} {s t : State} (h : accept w s = .next t) :
    t.phase = s.phase ∨ (t.phase ≠ .acqRun ∧ t.phase ≠ .done) ∨ s.phase = .ready := by
  rcases accept_effect h with ⟨r, rfl⟩ | ⟨e, -, -, rfl⟩ | ⟨-, rfl⟩ | ⟨-, k, v, -, -, rfl⟩ | ⟨-, ⟨-, rfl⟩ | ⟨-, rfl⟩⟩ |
    ⟨hp, -⟩
  · exact .inl rfl
  · exact .inr (.inl (by simp))
  · exact .inr (.inl (by simp))
  · exact .inl rfl
  · exact .inr (.inl (by simp))
  · exact .inr (.inl (by simp))
  · exact .inr (.inr hp)

/-- Settles O53: a generator run is left by its own last micro-operation or by reset, and of all that a step does only a
word accepted in READY enters a search. -/
theorem generationBeforeCorrelation : Obligations.GenerationBeforeCorrelation := by
  intro s t h
  rcases step_next h with ⟨rest, hr, rfl⟩ | ⟨-, ⟨-, h⟩ | ⟨-, -, rfl⟩ | ⟨w, ws, hb, -, h⟩⟩
  · exact ⟨nofun, nofun, fun _ => .inr (.inr ⟨rfl, rest, hr⟩)⟩
  · rcases micro_phase h with ⟨hs, ht⟩ | ⟨hs, -⟩
    · exact ⟨fun ha => by simp [ha] at ht, fun hd => by simp [hd] at ht, fun _ => ht.imp_right .inl⟩
    · exact ⟨fun _ => .inl hs, fun _ => .inl hs, fun hg => by cases hg.symm.trans hs⟩
  · exact ⟨.inl, fun hd => .inr (.inr hd), .inl⟩
  · have hgen : s.phase ≠ .genRun := fun hg => by simp [hg, busy] at hb
    rcases accept_phase h with ht | ⟨hacq, hdone⟩ | hs
    · exact ⟨fun ha => .inl (ht.symm.trans ha), fun hd => .inr (.inr (ht.symm.trans hd)), fun hg => absurd hg hgen⟩
    · exact ⟨fun ha => absurd ha hacq, fun hd => absurd hd hdone, fun hg => absurd hg hgen⟩
    · exact ⟨fun _ => .inr hs, fun _ => .inr (.inl hs), fun hg => absurd hg hgen⟩

end Sys2Proof.Machine
end
